-- ==== Sys2Proof/Word.lean ====
section
/-! DEFINITION. The word types of the machine (00_scope.md R7, R11, R12) and the type of its memories. -/

namespace Sys2Proof

/-- The CPU data width: A, X, Y, SP, P and every memory cell of the CPU bus (R7). -/
abbrev Byte := BitVec 8

/-- A CPU bus address (R7, R70). -/
abbrev Addr := BitVec 16

/-- A PPU bus address (R7, R90). -/
abbrev PpuAddr := BitVec 14

/-- The PPU's VRAM address register and its temporary register (R44). -/
abbrev Vaddr := BitVec 15

/-- A memory of cells `w` bits wide: pairs of a cell number and its contents, in one canonical form
(strictly rising cell numbers, no cell that holds 0); a cell that is not listed holds 0 (log 5). -/
abbrev Store (w : Nat) := List (Nat × BitVec w)

/-- A memory of bytes: a list of `Host.Cell`. -/
abbrev Memory := Store 8

/-- The high byte of an address, `a[15:8]` (R11). -/
def hiByte (a : Addr) : Byte := a.extractLsb' 8 8

/-- The low byte of an address, `a[7:0]` (R11). -/
def loByte (a : Addr) : Byte := a.extractLsb' 0 8

/-- `{hi, lo}` (R11). -/
def addrOf (hi lo : Byte) : Addr := hi ++ lo

/-- A zero-page address: `zext_16(z)` (R11). -/
def zeroPage (z : Byte) : Addr := z.setWidth 16

end Sys2Proof
end

