-- ==== Sys2Proof/Syntax.lean ====
section
/-! DEFINITION. The instructions of the CPU core, as 41_load_store_transfer.md to 46_flags_system.md list them.

One constructor per instruction rule (R161 to R280); a constructor's operand form is its argument, so a row of
spec/opcode_table.json is a constructor at one form (LDA has eight rows, one rule R161, and one constructor). The 105 ILLEGAL
rows, which R280 gives one rule, are the constructor `illegal` with the opcode byte as its field (log 14). Which forms an
instruction has is `Instr.wellFormed`. -/

namespace Sys2Proof

/-- The addressing modes that yield an effective address for a data access (40_addressing_modes.md R142 to R149), each with
its operand bytes assembled as 30_encoding.md R111 and R112 say. -/
inductive EaMode where
  /-- zero page (R142) -/
  | zp (zz : Byte)
  /-- zero page,X (R143) -/
  | zpx (zz : Byte)
  /-- zero page,Y (R144) -/
  | zpy (zz : Byte)
  /-- absolute (R145) -/
  | abs (base : Addr)
  /-- absolute,X (R146) -/
  | abx (base : Addr)
  /-- absolute,Y (R147) -/
  | aby (base : Addr)
  /-- (indexed,X) indirect (R148) -/
  | izx (zz : Byte)
  /-- indirect,(indexed Y) (R149) -/
  | izy (zz : Byte)
  deriving DecidableEq, Repr

/-- The operand of an instruction that reads: an immediate byte (R150) or a byte of memory. -/
inductive ReadOperand where
  | imm (nn : Byte)
  | mem (m : EaMode)
  deriving DecidableEq, Repr

/-- The operand of a shift or rotate: the accumulator (R152) or a byte of memory, read, modified and written (R156). -/
inductive ShiftOperand where
  | acc
  | mem (m : EaMode)
  deriving DecidableEq, Repr

/-- The instructions. -/
inductive Instr where
  -- 41: load, store and register transfer
  | lda (o : ReadOperand)
  | ldx (o : ReadOperand)
  | ldy (o : ReadOperand)
  | sta (m : EaMode)
  | stx (m : EaMode)
  | sty (m : EaMode)
  | tax
  | tay
  | txa
  | tya
  | tsx
  | txs
  -- 42: stack
  | php
  | pha
  | pla
  | plp
  -- 43: arithmetic, compare, increment and decrement
  | adc (o : ReadOperand)
  | sbc (o : ReadOperand)
  | cmp (o : ReadOperand)
  | cpx (o : ReadOperand)
  | cpy (o : ReadOperand)
  | inc (m : EaMode)
  | dec (m : EaMode)
  | inx
  | iny
  | dex
  | dey
  -- 44: logic, bit test, shift and rotate
  | and (o : ReadOperand)
  | ora (o : ReadOperand)
  | bit (m : EaMode)
  | eor (o : ReadOperand)
  | asl (o : ShiftOperand)
  | lsr (o : ShiftOperand)
  | rol (o : ShiftOperand)
  | ror (o : ShiftOperand)
  -- 45: control transfer
  | bcc (oo : Byte)
  | bcs (oo : Byte)
  | beq (oo : Byte)
  | bmi (oo : Byte)
  | bne (oo : Byte)
  | bpl (oo : Byte)
  | bvc (oo : Byte)
  | bvs (oo : Byte)
  /-- JMP absolute (R249) -/
  | jmp (target : Addr)
  /-- JMP indirect (R250) -/
  | jmpInd (pointer : Addr)
  | jsr (target : Addr)
  | rts
  -- 46: flags, no-op, break, return from interrupt, illegal opcodes
  | clc
  | cld
  | cli
  | clv
  | sec
  | sed
  | sei
  | nop
  | brk
  | rti
  /-- one of the 105 illegal opcodes (R119, R280) -/
  | illegal (op : Byte)
  deriving DecidableEq, Repr

end Sys2Proof
end

