-- ==== Sys2Proof/WellFormed.lean ====
section
/-! DEFINITION. Which terms of `Instr` are instructions: the operand forms each instruction has, by the Encoding line of its
rule in 41 to 46, and the 105 illegal opcode values of 30_encoding.md R119. -/

namespace Sys2Proof

/-- The forms of LDA, ADC, SBC, CMP, AND, ORA and EOR: imm, zp, zpx, abs, abx, aby, izx, izy. -/
def ReadOperand.accumulatorForm : ReadOperand → Bool
  | .imm _ => true
  | .mem (.zpy _) => false
  | .mem _ => true

/-- The forms of LDX (R162): imm, zp, zpy, abs, aby. -/
def ReadOperand.ldxForm : ReadOperand → Bool
  | .imm _ | .mem (.zp _) | .mem (.zpy _) | .mem (.abs _) | .mem (.aby _) => true
  | _ => false

/-- The forms of LDY (R163): imm, zp, zpx, abs, abx. -/
def ReadOperand.ldyForm : ReadOperand → Bool
  | .imm _ | .mem (.zp _) | .mem (.zpx _) | .mem (.abs _) | .mem (.abx _) => true
  | _ => false

/-- The forms of CPX and CPY (R196, R197): imm, zp, abs. -/
def ReadOperand.indexCompareForm : ReadOperand → Bool
  | .imm _ | .mem (.zp _) | .mem (.abs _) => true
  | _ => false

/-- The forms of STA (R164): zp, zpx, abs, abx, aby, izx, izy. -/
def EaMode.staForm : EaMode → Bool
  | .zpy _ => false
  | _ => true

/-- The forms of STX (R165): zp, zpy, abs. -/
def EaMode.stxForm : EaMode → Bool
  | .zp _ | .zpy _ | .abs _ => true
  | _ => false

/-- The forms of STY (R166): zp, zpx, abs. -/
def EaMode.styForm : EaMode → Bool
  | .zp _ | .zpx _ | .abs _ => true
  | _ => false

/-- The forms of BIT (R223): zp, abs. -/
def EaMode.bitForm : EaMode → Bool
  | .zp _ | .abs _ => true
  | _ => false

/-- The memory forms of INC, DEC, ASL, LSR, ROL and ROR (R198, R199, R225 to R228): zp, zpx, abs, abx. -/
def EaMode.modifyForm : EaMode → Bool
  | .zp _ | .zpx _ | .abs _ | .abx _ => true
  | _ => false

/-- The forms of ASL, LSR, ROL and ROR: acc and the memory forms. -/
def ShiftOperand.shiftForm : ShiftOperand → Bool
  | .acc => true
  | .mem m => m.modifyForm

/-- The 105 opcode values with no documented instruction, as the list of R119 gives them, row by row of its high digit. -/
def illegalOpcodes : List Nat :=
  [0x02, 0x03, 0x04, 0x07, 0x0B, 0x0C, 0x0F] ++ [0x12, 0x13, 0x14, 0x17, 0x1A, 0x1B, 0x1C, 0x1F] ++
  [0x22, 0x23, 0x27, 0x2B, 0x2F] ++ [0x32, 0x33, 0x34, 0x37, 0x3A, 0x3B, 0x3C, 0x3F] ++
  [0x42, 0x43, 0x44, 0x47, 0x4B, 0x4F] ++ [0x52, 0x53, 0x54, 0x57, 0x5A, 0x5B, 0x5C, 0x5F] ++
  [0x62, 0x63, 0x64, 0x67, 0x6B, 0x6F] ++ [0x72, 0x73, 0x74, 0x77, 0x7A, 0x7B, 0x7C, 0x7F] ++
  [0x80, 0x82, 0x83, 0x87, 0x89, 0x8B, 0x8F] ++ [0x92, 0x93, 0x97, 0x9B, 0x9C, 0x9E, 0x9F] ++
  [0xA3, 0xA7, 0xAB, 0xAF] ++ [0xB2, 0xB3, 0xB7, 0xBB, 0xBF] ++
  [0xC2, 0xC3, 0xC7, 0xCB, 0xCF] ++ [0xD2, 0xD3, 0xD4, 0xD7, 0xDA, 0xDB, 0xDC, 0xDF] ++
  [0xE2, 0xE3, 0xE7, 0xEB, 0xEF] ++ [0xF2, 0xF3, 0xF4, 0xF7, 0xFA, 0xFB, 0xFC, 0xFF]

/-- The check: the operand form is one the instruction has; an `illegal` carries one of the 105 values. -/
def Instr.wellFormed : Instr → Bool
  | .lda o | .adc o | .sbc o | .cmp o | .and o | .ora o | .eor o => o.accumulatorForm
  | .ldx o => o.ldxForm
  | .ldy o => o.ldyForm
  | .cpx o | .cpy o => o.indexCompareForm
  | .sta m => m.staForm
  | .stx m => m.stxForm
  | .sty m => m.styForm
  | .bit m => m.bitForm
  | .inc m | .dec m => m.modifyForm
  | .asl o | .lsr o | .rol o | .ror o => o.shiftForm
  | .tax | .tay | .txa | .tya | .tsx | .txs => true
  | .php | .pha | .pla | .plp => true
  | .inx | .iny | .dex | .dey => true
  | .bcc _ | .bcs _ | .beq _ | .bmi _ | .bne _ | .bpl _ | .bvc _ | .bvs _ => true
  | .jmp _ | .jmpInd _ | .jsr _ | .rts => true
  | .clc | .cld | .cli | .clv | .sec | .sed | .sei | .nop | .brk | .rti => true
  | .illegal op => illegalOpcodes.contains op.toNat

end Sys2Proof
end

