-- ==== Sys2Proof/Decode.lean ====
section
/-! DEFINITION. Decoding and encoding (30_encoding.md R110 to R121).

`decodeBytes` is the 256-entry lookup of R115, written from the map of R117. `opcode?` and `encode` are written from the
Encoding lines of the rules of 41 to 46. -/

namespace Sys2Proof

/-- The lookup of R115 and R117: the instruction an opcode byte selects, with its operand bytes (R111, R112: the second byte
is the low byte of a 16-bit operand). An operand byte the mode does not have is not looked at. The last arm is the 105
ILLEGAL entries (R119): no documented opcode is left to it, and none of them falls to a documented one
(`Tests.test_illegal_rows`). -/
def decodeBytes (op b1 b2 : Byte) : Instr :=
  match op with
  | 0x00#8 => .brk
  | 0x01#8 => .ora (.mem (.izx b1))
  | 0x05#8 => .ora (.mem (.zp b1))
  | 0x06#8 => .asl (.mem (.zp b1))
  | 0x08#8 => .php
  | 0x09#8 => .ora (.imm b1)
  | 0x0A#8 => .asl .acc
  | 0x0D#8 => .ora (.mem (.abs (addrOf b2 b1)))
  | 0x0E#8 => .asl (.mem (.abs (addrOf b2 b1)))
  | 0x10#8 => .bpl b1
  | 0x11#8 => .ora (.mem (.izy b1))
  | 0x15#8 => .ora (.mem (.zpx b1))
  | 0x16#8 => .asl (.mem (.zpx b1))
  | 0x18#8 => .clc
  | 0x19#8 => .ora (.mem (.aby (addrOf b2 b1)))
  | 0x1D#8 => .ora (.mem (.abx (addrOf b2 b1)))
  | 0x1E#8 => .asl (.mem (.abx (addrOf b2 b1)))
  | 0x20#8 => .jsr (addrOf b2 b1)
  | 0x21#8 => .and (.mem (.izx b1))
  | 0x24#8 => .bit (.zp b1)
  | 0x25#8 => .and (.mem (.zp b1))
  | 0x26#8 => .rol (.mem (.zp b1))
  | 0x28#8 => .plp
  | 0x29#8 => .and (.imm b1)
  | 0x2A#8 => .rol .acc
  | 0x2C#8 => .bit (.abs (addrOf b2 b1))
  | 0x2D#8 => .and (.mem (.abs (addrOf b2 b1)))
  | 0x2E#8 => .rol (.mem (.abs (addrOf b2 b1)))
  | 0x30#8 => .bmi b1
  | 0x31#8 => .and (.mem (.izy b1))
  | 0x35#8 => .and (.mem (.zpx b1))
  | 0x36#8 => .rol (.mem (.zpx b1))
  | 0x38#8 => .sec
  | 0x39#8 => .and (.mem (.aby (addrOf b2 b1)))
  | 0x3D#8 => .and (.mem (.abx (addrOf b2 b1)))
  | 0x3E#8 => .rol (.mem (.abx (addrOf b2 b1)))
  | 0x40#8 => .rti
  | 0x41#8 => .eor (.mem (.izx b1))
  | 0x45#8 => .eor (.mem (.zp b1))
  | 0x46#8 => .lsr (.mem (.zp b1))
  | 0x48#8 => .pha
  | 0x49#8 => .eor (.imm b1)
  | 0x4A#8 => .lsr .acc
  | 0x4C#8 => .jmp (addrOf b2 b1)
  | 0x4D#8 => .eor (.mem (.abs (addrOf b2 b1)))
  | 0x4E#8 => .lsr (.mem (.abs (addrOf b2 b1)))
  | 0x50#8 => .bvc b1
  | 0x51#8 => .eor (.mem (.izy b1))
  | 0x55#8 => .eor (.mem (.zpx b1))
  | 0x56#8 => .lsr (.mem (.zpx b1))
  | 0x58#8 => .cli
  | 0x59#8 => .eor (.mem (.aby (addrOf b2 b1)))
  | 0x5D#8 => .eor (.mem (.abx (addrOf b2 b1)))
  | 0x5E#8 => .lsr (.mem (.abx (addrOf b2 b1)))
  | 0x60#8 => .rts
  | 0x61#8 => .adc (.mem (.izx b1))
  | 0x65#8 => .adc (.mem (.zp b1))
  | 0x66#8 => .ror (.mem (.zp b1))
  | 0x68#8 => .pla
  | 0x69#8 => .adc (.imm b1)
  | 0x6A#8 => .ror .acc
  | 0x6C#8 => .jmpInd (addrOf b2 b1)
  | 0x6D#8 => .adc (.mem (.abs (addrOf b2 b1)))
  | 0x6E#8 => .ror (.mem (.abs (addrOf b2 b1)))
  | 0x70#8 => .bvs b1
  | 0x71#8 => .adc (.mem (.izy b1))
  | 0x75#8 => .adc (.mem (.zpx b1))
  | 0x76#8 => .ror (.mem (.zpx b1))
  | 0x78#8 => .sei
  | 0x79#8 => .adc (.mem (.aby (addrOf b2 b1)))
  | 0x7D#8 => .adc (.mem (.abx (addrOf b2 b1)))
  | 0x7E#8 => .ror (.mem (.abx (addrOf b2 b1)))
  | 0x81#8 => .sta (.izx b1)
  | 0x84#8 => .sty (.zp b1)
  | 0x85#8 => .sta (.zp b1)
  | 0x86#8 => .stx (.zp b1)
  | 0x88#8 => .dey
  | 0x8A#8 => .txa
  | 0x8C#8 => .sty (.abs (addrOf b2 b1))
  | 0x8D#8 => .sta (.abs (addrOf b2 b1))
  | 0x8E#8 => .stx (.abs (addrOf b2 b1))
  | 0x90#8 => .bcc b1
  | 0x91#8 => .sta (.izy b1)
  | 0x94#8 => .sty (.zpx b1)
  | 0x95#8 => .sta (.zpx b1)
  | 0x96#8 => .stx (.zpy b1)
  | 0x98#8 => .tya
  | 0x99#8 => .sta (.aby (addrOf b2 b1))
  | 0x9A#8 => .txs
  | 0x9D#8 => .sta (.abx (addrOf b2 b1))
  | 0xA0#8 => .ldy (.imm b1)
  | 0xA1#8 => .lda (.mem (.izx b1))
  | 0xA2#8 => .ldx (.imm b1)
  | 0xA4#8 => .ldy (.mem (.zp b1))
  | 0xA5#8 => .lda (.mem (.zp b1))
  | 0xA6#8 => .ldx (.mem (.zp b1))
  | 0xA8#8 => .tay
  | 0xA9#8 => .lda (.imm b1)
  | 0xAA#8 => .tax
  | 0xAC#8 => .ldy (.mem (.abs (addrOf b2 b1)))
  | 0xAD#8 => .lda (.mem (.abs (addrOf b2 b1)))
  | 0xAE#8 => .ldx (.mem (.abs (addrOf b2 b1)))
  | 0xB0#8 => .bcs b1
  | 0xB1#8 => .lda (.mem (.izy b1))
  | 0xB4#8 => .ldy (.mem (.zpx b1))
  | 0xB5#8 => .lda (.mem (.zpx b1))
  | 0xB6#8 => .ldx (.mem (.zpy b1))
  | 0xB8#8 => .clv
  | 0xB9#8 => .lda (.mem (.aby (addrOf b2 b1)))
  | 0xBA#8 => .tsx
  | 0xBC#8 => .ldy (.mem (.abx (addrOf b2 b1)))
  | 0xBD#8 => .lda (.mem (.abx (addrOf b2 b1)))
  | 0xBE#8 => .ldx (.mem (.aby (addrOf b2 b1)))
  | 0xC0#8 => .cpy (.imm b1)
  | 0xC1#8 => .cmp (.mem (.izx b1))
  | 0xC4#8 => .cpy (.mem (.zp b1))
  | 0xC5#8 => .cmp (.mem (.zp b1))
  | 0xC6#8 => .dec (.zp b1)
  | 0xC8#8 => .iny
  | 0xC9#8 => .cmp (.imm b1)
  | 0xCA#8 => .dex
  | 0xCC#8 => .cpy (.mem (.abs (addrOf b2 b1)))
  | 0xCD#8 => .cmp (.mem (.abs (addrOf b2 b1)))
  | 0xCE#8 => .dec (.abs (addrOf b2 b1))
  | 0xD0#8 => .bne b1
  | 0xD1#8 => .cmp (.mem (.izy b1))
  | 0xD5#8 => .cmp (.mem (.zpx b1))
  | 0xD6#8 => .dec (.zpx b1)
  | 0xD8#8 => .cld
  | 0xD9#8 => .cmp (.mem (.aby (addrOf b2 b1)))
  | 0xDD#8 => .cmp (.mem (.abx (addrOf b2 b1)))
  | 0xDE#8 => .dec (.abx (addrOf b2 b1))
  | 0xE0#8 => .cpx (.imm b1)
  | 0xE1#8 => .sbc (.mem (.izx b1))
  | 0xE4#8 => .cpx (.mem (.zp b1))
  | 0xE5#8 => .sbc (.mem (.zp b1))
  | 0xE6#8 => .inc (.zp b1)
  | 0xE8#8 => .inx
  | 0xE9#8 => .sbc (.imm b1)
  | 0xEA#8 => .nop
  | 0xEC#8 => .cpx (.mem (.abs (addrOf b2 b1)))
  | 0xED#8 => .sbc (.mem (.abs (addrOf b2 b1)))
  | 0xEE#8 => .inc (.abs (addrOf b2 b1))
  | 0xF0#8 => .beq b1
  | 0xF1#8 => .sbc (.mem (.izy b1))
  | 0xF5#8 => .sbc (.mem (.zpx b1))
  | 0xF6#8 => .inc (.zpx b1)
  | 0xF8#8 => .sed
  | 0xF9#8 => .sbc (.mem (.aby (addrOf b2 b1)))
  | 0xFD#8 => .sbc (.mem (.abx (addrOf b2 b1)))
  | 0xFE#8 => .inc (.abx (addrOf b2 b1))
  | _ => .illegal op

/-- The bytes an effective-address mode's operand takes (R111). -/
def EaMode.operandLength : EaMode → Nat
  | .zp _ | .zpx _ | .zpy _ | .izx _ | .izy _ => 1
  | .abs _ | .abx _ | .aby _ => 2

/-- The bytes a read operand takes (R111). -/
def ReadOperand.operandLength : ReadOperand → Nat
  | .imm _ => 1
  | .mem m => m.operandLength

/-- The bytes a shift operand takes (R111). -/
def ShiftOperand.operandLength : ShiftOperand → Nat
  | .acc => 0
  | .mem m => m.operandLength

/-- The length of an instruction in bytes (R121); an illegal opcode has length 1 (R119). -/
def Instr.length : Instr → Nat
  | .lda o | .ldx o | .ldy o | .adc o | .sbc o | .cmp o | .cpx o | .cpy o | .and o | .ora o | .eor o => 1 + o.operandLength
  | .sta m | .stx m | .sty m | .bit m | .inc m | .dec m => 1 + m.operandLength
  | .asl o | .lsr o | .rol o | .ror o => 1 + o.operandLength
  | .bcc _ | .bcs _ | .beq _ | .bmi _ | .bne _ | .bpl _ | .bvc _ | .bvs _ => 2
  | .jmp _ | .jmpInd _ | .jsr _ => 3
  | .tax | .tay | .txa | .tya | .tsx | .txs | .php | .pha | .pla | .plp | .inx | .iny | .dex | .dey => 1
  | .rts | .clc | .cld | .cli | .clv | .sec | .sed | .sei | .nop | .brk | .rti | .illegal _ => 1

/-- The length the opcode byte alone selects (R110, R121). -/
def opLength (op : Byte) : Nat := (decodeBytes op 0 0).length

/-- Why a list of bytes does not decode: it ends inside the instruction. Every opcode byte decodes (R115). -/
inductive DecodeError where
  | noOpcode
  | truncated
  deriving DecidableEq, Repr

/-- Decode the first instruction of a list of bytes, in address order; the rest of the list is returned with it. -/
def decode : List Byte → Except DecodeError (Instr × List Byte)
  | [] => .error .noOpcode
  | op :: rest =>
    match opLength op, rest with
    | 1, rest => .ok (decodeBytes op 0 0, rest)
    | 2, b1 :: rest => .ok (decodeBytes op b1 0, rest)
    | 3, b1 :: b2 :: rest => .ok (decodeBytes op b1 b2, rest)
    | _, _ => .error .truncated

/-- The opcode byte of an instruction, by the Encoding line of its rule; none where the instruction has no such form. -/
def Instr.opcode? : Instr → Option Byte
  -- R161
  | .lda (.imm _) => some 0xA9
  | .lda (.mem (.zp _)) => some 0xA5
  | .lda (.mem (.zpx _)) => some 0xB5
  | .lda (.mem (.abs _)) => some 0xAD
  | .lda (.mem (.abx _)) => some 0xBD
  | .lda (.mem (.aby _)) => some 0xB9
  | .lda (.mem (.izx _)) => some 0xA1
  | .lda (.mem (.izy _)) => some 0xB1
  | .lda _ => none
  -- R162
  | .ldx (.imm _) => some 0xA2
  | .ldx (.mem (.zp _)) => some 0xA6
  | .ldx (.mem (.zpy _)) => some 0xB6
  | .ldx (.mem (.abs _)) => some 0xAE
  | .ldx (.mem (.aby _)) => some 0xBE
  | .ldx _ => none
  -- R163
  | .ldy (.imm _) => some 0xA0
  | .ldy (.mem (.zp _)) => some 0xA4
  | .ldy (.mem (.zpx _)) => some 0xB4
  | .ldy (.mem (.abs _)) => some 0xAC
  | .ldy (.mem (.abx _)) => some 0xBC
  | .ldy _ => none
  -- R164
  | .sta (.zp _) => some 0x85
  | .sta (.zpx _) => some 0x95
  | .sta (.abs _) => some 0x8D
  | .sta (.abx _) => some 0x9D
  | .sta (.aby _) => some 0x99
  | .sta (.izx _) => some 0x81
  | .sta (.izy _) => some 0x91
  | .sta _ => none
  -- R165
  | .stx (.zp _) => some 0x86
  | .stx (.zpy _) => some 0x96
  | .stx (.abs _) => some 0x8E
  | .stx _ => none
  -- R166
  | .sty (.zp _) => some 0x84
  | .sty (.zpx _) => some 0x94
  | .sty (.abs _) => some 0x8C
  | .sty _ => none
  -- R167
  | .tax => some 0xAA
  -- R168
  | .tay => some 0xA8
  -- R169
  | .txa => some 0x8A
  -- R170
  | .tya => some 0x98
  -- R171
  | .tsx => some 0xBA
  -- R172
  | .txs => some 0x9A
  -- R181
  | .php => some 0x08
  -- R182
  | .pha => some 0x48
  -- R183
  | .pla => some 0x68
  -- R184
  | .plp => some 0x28
  -- R191
  | .adc (.imm _) => some 0x69
  | .adc (.mem (.zp _)) => some 0x65
  | .adc (.mem (.zpx _)) => some 0x75
  | .adc (.mem (.abs _)) => some 0x6D
  | .adc (.mem (.abx _)) => some 0x7D
  | .adc (.mem (.aby _)) => some 0x79
  | .adc (.mem (.izx _)) => some 0x61
  | .adc (.mem (.izy _)) => some 0x71
  | .adc _ => none
  -- R193
  | .sbc (.imm _) => some 0xE9
  | .sbc (.mem (.zp _)) => some 0xE5
  | .sbc (.mem (.zpx _)) => some 0xF5
  | .sbc (.mem (.abs _)) => some 0xED
  | .sbc (.mem (.abx _)) => some 0xFD
  | .sbc (.mem (.aby _)) => some 0xF9
  | .sbc (.mem (.izx _)) => some 0xE1
  | .sbc (.mem (.izy _)) => some 0xF1
  | .sbc _ => none
  -- R195
  | .cmp (.imm _) => some 0xC9
  | .cmp (.mem (.zp _)) => some 0xC5
  | .cmp (.mem (.zpx _)) => some 0xD5
  | .cmp (.mem (.abs _)) => some 0xCD
  | .cmp (.mem (.abx _)) => some 0xDD
  | .cmp (.mem (.aby _)) => some 0xD9
  | .cmp (.mem (.izx _)) => some 0xC1
  | .cmp (.mem (.izy _)) => some 0xD1
  | .cmp _ => none
  -- R196
  | .cpx (.imm _) => some 0xE0
  | .cpx (.mem (.zp _)) => some 0xE4
  | .cpx (.mem (.abs _)) => some 0xEC
  | .cpx _ => none
  -- R197
  | .cpy (.imm _) => some 0xC0
  | .cpy (.mem (.zp _)) => some 0xC4
  | .cpy (.mem (.abs _)) => some 0xCC
  | .cpy _ => none
  -- R198
  | .inc (.zp _) => some 0xE6
  | .inc (.zpx _) => some 0xF6
  | .inc (.abs _) => some 0xEE
  | .inc (.abx _) => some 0xFE
  | .inc _ => none
  -- R199
  | .dec (.zp _) => some 0xC6
  | .dec (.zpx _) => some 0xD6
  | .dec (.abs _) => some 0xCE
  | .dec (.abx _) => some 0xDE
  | .dec _ => none
  -- R200
  | .inx => some 0xE8
  -- R201
  | .iny => some 0xC8
  -- R202
  | .dex => some 0xCA
  -- R203
  | .dey => some 0x88
  -- R221
  | .and (.imm _) => some 0x29
  | .and (.mem (.zp _)) => some 0x25
  | .and (.mem (.zpx _)) => some 0x35
  | .and (.mem (.abs _)) => some 0x2D
  | .and (.mem (.abx _)) => some 0x3D
  | .and (.mem (.aby _)) => some 0x39
  | .and (.mem (.izx _)) => some 0x21
  | .and (.mem (.izy _)) => some 0x31
  | .and _ => none
  -- R222
  | .ora (.imm _) => some 0x09
  | .ora (.mem (.zp _)) => some 0x05
  | .ora (.mem (.zpx _)) => some 0x15
  | .ora (.mem (.abs _)) => some 0x0D
  | .ora (.mem (.abx _)) => some 0x1D
  | .ora (.mem (.aby _)) => some 0x19
  | .ora (.mem (.izx _)) => some 0x01
  | .ora (.mem (.izy _)) => some 0x11
  | .ora _ => none
  -- R223
  | .bit (.zp _) => some 0x24
  | .bit (.abs _) => some 0x2C
  | .bit _ => none
  -- R224
  | .eor (.imm _) => some 0x49
  | .eor (.mem (.zp _)) => some 0x45
  | .eor (.mem (.zpx _)) => some 0x55
  | .eor (.mem (.abs _)) => some 0x4D
  | .eor (.mem (.abx _)) => some 0x5D
  | .eor (.mem (.aby _)) => some 0x59
  | .eor (.mem (.izx _)) => some 0x41
  | .eor (.mem (.izy _)) => some 0x51
  | .eor _ => none
  -- R225
  | .asl .acc => some 0x0A
  | .asl (.mem (.zp _)) => some 0x06
  | .asl (.mem (.zpx _)) => some 0x16
  | .asl (.mem (.abs _)) => some 0x0E
  | .asl (.mem (.abx _)) => some 0x1E
  | .asl _ => none
  -- R226
  | .lsr .acc => some 0x4A
  | .lsr (.mem (.zp _)) => some 0x46
  | .lsr (.mem (.zpx _)) => some 0x56
  | .lsr (.mem (.abs _)) => some 0x4E
  | .lsr (.mem (.abx _)) => some 0x5E
  | .lsr _ => none
  -- R227
  | .rol .acc => some 0x2A
  | .rol (.mem (.zp _)) => some 0x26
  | .rol (.mem (.zpx _)) => some 0x36
  | .rol (.mem (.abs _)) => some 0x2E
  | .rol (.mem (.abx _)) => some 0x3E
  | .rol _ => none
  -- R228
  | .ror .acc => some 0x6A
  | .ror (.mem (.zp _)) => some 0x66
  | .ror (.mem (.zpx _)) => some 0x76
  | .ror (.mem (.abs _)) => some 0x6E
  | .ror (.mem (.abx _)) => some 0x7E
  | .ror _ => none
  -- R241
  | .bcc _ => some 0x90
  -- R242
  | .bcs _ => some 0xB0
  -- R243
  | .beq _ => some 0xF0
  -- R244
  | .bmi _ => some 0x30
  -- R245
  | .bne _ => some 0xD0
  -- R246
  | .bpl _ => some 0x10
  -- R247
  | .bvc _ => some 0x50
  -- R248
  | .bvs _ => some 0x70
  -- R249
  | .jmp _ => some 0x4C
  -- R250
  | .jmpInd _ => some 0x6C
  -- R251
  | .jsr _ => some 0x20
  -- R252
  | .rts => some 0x60
  -- R261
  | .clc => some 0x18
  -- R262
  | .cld => some 0xD8
  -- R263
  | .cli => some 0x58
  -- R264
  | .clv => some 0xB8
  -- R265
  | .sec => some 0x38
  -- R266
  | .sed => some 0xF8
  -- R267
  | .sei => some 0x78
  -- R268
  | .nop => some 0xEA
  -- R275
  | .brk => some 0x00
  -- R276
  | .rti => some 0x40
  -- R280
  | .illegal op => if illegalOpcodes.contains op.toNat then some op else none

/-- The two bytes of a 16-bit operand, low byte first (R112). -/
def wordBytes (a : Addr) : List Byte := [loByte a, hiByte a]

/-- The operand bytes of a mode (R111). -/
def EaMode.operandBytes : EaMode → List Byte
  | .zp zz | .zpx zz | .zpy zz | .izx zz | .izy zz => [zz]
  | .abs base | .abx base | .aby base => wordBytes base

/-- The operand bytes of a read operand (R111). -/
def ReadOperand.operandBytes : ReadOperand → List Byte
  | .imm nn => [nn]
  | .mem m => m.operandBytes

/-- The operand bytes of a shift operand (R111). -/
def ShiftOperand.operandBytes : ShiftOperand → List Byte
  | .acc => []
  | .mem m => m.operandBytes

/-- The bytes that follow the opcode (R111). -/
def Instr.operandBytes : Instr → List Byte
  | .lda o | .ldx o | .ldy o | .adc o | .sbc o | .cmp o | .cpx o | .cpy o | .and o | .ora o | .eor o => o.operandBytes
  | .sta m | .stx m | .sty m | .bit m | .inc m | .dec m => m.operandBytes
  | .asl o | .lsr o | .rol o | .ror o => o.operandBytes
  | .bcc oo | .bcs oo | .beq oo | .bmi oo | .bne oo | .bpl oo | .bvc oo | .bvs oo => [oo]
  | .jmp a | .jmpInd a | .jsr a => wordBytes a
  | .tax | .tay | .txa | .tya | .tsx | .txs | .php | .pha | .pla | .plp | .inx | .iny | .dex | .dey => []
  | .rts | .clc | .cld | .cli | .clv | .sec | .sed | .sei | .nop | .brk | .rti | .illegal _ => []

/-- The bytes of a well-formed instruction in address order; no bytes for a term that is none (R110). -/
def encode (i : Instr) : List Byte :=
  match i.opcode? with
  | some op => op :: i.operandBytes
  | none => []

/-- The instruction the decoder reads from an opcode-table word: bits 7..0 are the first byte, 15..8 the second, 23..16 the
third; the bits from `nbits` up are 0. -/
def decodeTableWord (nbits w : Nat) : Option Instr :=
  let w := w % 2 ^ nbits
  match decode [BitVec.ofNat 8 w, BitVec.ofNat 8 (w / 256), BitVec.ofNat 8 (w / 65536)] with
  | .ok (i, _) => some i
  | .error _ => none

end Sys2Proof
end

