-- ==== Sys2Proof/Config.lean ====
section
/-! DEFINITION. The implementation parameters of 00_scope.md R8 and the free values (the "draws" of R10).

The parameters are fixed for a machine. They stand in a record that `State` carries unchanged, so that a statement over every
state is a statement over every setting of them (log 3). The free values are constants without a body: nothing can be proved
about the value of one. Each is applied to the counter `State.draws`, which every use advances (log 11). -/

namespace Sys2Proof

/-- `DECIMAL_MODE` (R8, R9). -/
inductive DecimalMode where
  | ignored
  | nmos
  deriving DecidableEq, Repr

/-- `ILLEGAL_OPCODE_POLICY` (R8; 46_flags_system.md R280). -/
inductive IllegalPolicy where
  | nop1
  | fatal
  deriving DecidableEq, Repr

/-- `OVERFLOW_MODE` (R8; 51_ppu_timing_rendering.md R371). -/
inductive OverflowMode where
  | hardware
  | ideal
  deriving DecidableEq, Repr

/-- `OAM_DMA_CYCLES` (R8; 52_io_dma_controllers.md R403). -/
inductive DmaCycleMode where
  | parity
  | draw
  deriving DecidableEq, Repr

/-- The configuration parameters of R8, less the cartridge (which is `Machine.Cartridge`). -/
structure Params where
  decimalMode       : DecimalMode
  illegalPolicy     : IllegalPolicy
  /-- `PRE_RENDER_CLEAR_DOT`, an integer in 1..340 (`Params.wf`). -/
  preRenderClearDot : Nat
  overflowMode      : OverflowMode
  nmiOnCtrlEnable   : Bool
  dmaCycles         : DmaCycleMode
  deriving DecidableEq, Repr

/-- The defaults of the table of R8. -/
def Params.default : Params where
  decimalMode       := .ignored
  illegalPolicy     := .nop1
  preRenderClearDot := 280
  overflowMode      := .hardware
  nmiOnCtrlEnable   := true
  dmaCycles         := .parity

/-- The range R8 gives `PRE_RENDER_CLEAR_DOT`. -/
abbrev Params.wf (p : Params) : Prop := 1 ≤ p.preRenderClearDot ∧ p.preRenderClearDot ≤ 340

/-- `OpenBus()`: the byte an undriven read finds (R13, 20_memory.md R79; log 6). -/
opaque Config.openBus : Nat → Byte

/-- The level of the external IRQ line at the end of an iteration (10_state.md R59, 53_synchronizer.md R433; log 7). -/
opaque Config.irqLine : Nat → Bool

/-- `poll_input()`: the two controllers' button bytes at a frame hand-off (52_io_dma_controllers.md R408; log 8). -/
opaque Config.pollInput : Nat → Byte × Byte

/-- `ApuStatusRead()`: what the external APU answers to a read of 0x4015 (52_io_dma_controllers.md R411; log 9). -/
opaque Config.apuStatus : Nat → Byte

/-- The one-bit draw of an OAM DMA under `OAM_DMA_CYCLES = draw` (52_io_dma_controllers.md R403; log 10). -/
opaque Config.dmaExtraCycle : Nat → Bool

end Sys2Proof
end

