-- ==== Sys2Proof/Machine/State.lean ====
section
/-! DEFINITION. The state of the block (10_state.md R20 to R63), the reasons a step can stop, and the state after reset.

All of it is plain data. `cfg` and `cart` are configuration (R55, R63), carried in the state so that `step` takes them as an
argument; no step changes them (log 3, log 4). `draws` and `out` are the model's own fields (log 11, log 15). -/

namespace Sys2Proof.Machine

/-- The status register P as its eight flags (R24 to R32); the byte a push writes is `Flags.pushByte`. -/
structure Flags where
  c : Bool
  z : Bool
  i : Bool
  d : Bool
  b : Bool
  u : Bool
  v : Bool
  n : Bool
  deriving DecidableEq, Repr

/-- The CPU core (R20 to R36). -/
structure Cpu where
  a            : Byte
  x            : Byte
  y            : Byte
  sp           : Byte
  pc           : Addr
  p            : Flags
  cycles       : Nat
  nmiPending   : Bool
  irqPending   : Bool
  resetPending : Bool
  anomalyCount : Nat
  fault        : Bool
  dmaStall     : Nat
  deriving DecidableEq, Repr

/-- One sprite latch of the line being drawn (R53). -/
structure SpriteLatch where
  /-- the OAM index, 0..63 -/
  n    : Nat
  x    : Byte
  attr : Byte
  lo   : Byte
  hi   : Byte
  deriving DecidableEq, Repr

/-- The PPU (R40 to R54). -/
structure Ppu where
  ctrl           : Byte
  mask           : Byte
  vblank         : Bool
  sprite0Hit     : Bool
  spriteOverflow : Bool
  oamAddr        : Byte
  v              : Vaddr
  t              : Vaddr
  x              : BitVec 3
  w              : Bool
  readBuffer     : Byte
  ioLatch        : Byte
  /-- 256 bytes -/
  oam            : Memory
  /-- 2048 bytes -/
  ciram          : Memory
  /-- 32 entries of 6 bits -/
  palette        : Store 6
  /-- 0..261 -/
  scanline       : Nat
  /-- 0..340 -/
  dot            : Nat
  frameReady     : Bool
  nmiRequest     : Bool
  lineScroll     : Vaddr
  lineFineX      : BitVec 3
  lineSprites    : List SpriteLatch
  /-- 240 rows of 256 cells of 9 bits; the cell of row s and column x is number 256 s + x -/
  fb             : Store 9
  fbOut          : Store 9
  deriving DecidableEq, Repr

/-- The size of PRG: 16384 or 32768 bytes (00_scope.md R8). -/
inductive PrgSize where
  | one16K
  | two16K
  deriving DecidableEq, Repr

/-- CHR: 8192 bytes of ROM, or none, and then there is CHR RAM (00_scope.md R8, 20_memory.md R91). -/
inductive Chr where
  | rom (bytes : Memory)
  | none
  deriving DecidableEq, Repr

/-- MIRRORING (00_scope.md R8, 20_memory.md R92). -/
inductive Mirroring where
  | horizontal
  | vertical
  deriving DecidableEq, Repr

/-- The cartridge: launch configuration, mapper 0 (R55, 20_memory.md R77). -/
structure Cartridge where
  prg       : Memory
  prgSize   : PrgSize
  chr       : Chr
  mirroring : Mirroring
  deriving DecidableEq, Repr

/-- The controller ports and the CPU bus latch (R57, R58). -/
structure Io where
  strobe      : Bool
  shift1      : Byte
  shift2      : Byte
  buttons1    : Byte
  buttons2    : Byte
  cpuBusLatch : Byte
  deriving DecidableEq, Repr

/-- What the block has handed to the outside, newest first (53_synchronizer.md R438; log 15): the APU write events
(52_io_dma_controllers.md R411), the anomaly log (46_flags_system.md R280) and the frames presented (53_synchronizer.md R434). -/
structure Outputs where
  apuEvents : List (Addr × Byte)
  anomalies : List (Byte × Addr)
  presented : List (Store 9)
  deriving DecidableEq, Repr

/-- The state of the block. -/
structure State where
  cpu    : Cpu
  ppu    : Ppu
  /-- 2048 bytes of internal RAM (R56) -/
  ram    : Memory
  /-- 8192 bytes of CHR RAM, used when CHR is none (R55) -/
  chrRam : Memory
  io     : Io
  /-- `sync.frames` (R60) -/
  frames : Nat
  cfg    : Params
  cart   : Cartridge
  /-- how many free values have been taken (log 11) -/
  draws  : Nat
  out    : Outputs
  deriving DecidableEq, Repr

/-- Why a step stops with a fault. -/
inductive Fault where
  /-- Raised by `step` on a machine whose `cpu.fault` is 1: "a CPU with `cpu.fault = 1` has no further step" (R35,
  53_synchronizer.md R436). No instruction's meaning raises it. Safe: the spec gives no further transition. -/
  | cpuFaulted
  deriving DecidableEq, Repr

/-- Why an instruction has no meaning. -/
inductive Refusal where
  /-- An instruction the model gives no meaning yet. Nothing raises it: every instruction has its meaning. Safe. -/
  | notModelled (mnemonic : String)
  deriving DecidableEq, Repr

/-- The flags after launch (70_reset_and_hazards.md R490, R491); C, Z, D, V and N are draws there, 0 here (log 2). -/
def Flags.reset : Flags where
  c := false
  z := false
  i := true
  d := false
  b := false
  u := true
  v := false
  n := false

/-- The CPU after launch (R490, R491); A, X and Y are draws there, 0 here (log 2). The PC is `Read16(0xFFFC)` of the blank
cartridge (log 1). -/
def Cpu.reset : Cpu where
  a := 0
  x := 0
  y := 0
  sp := 0xFD
  pc := 0x0000
  p := Flags.reset
  cycles := 0
  nmiPending := false
  irqPending := false
  resetPending := false
  anomalyCount := 0
  fault := false
  dmaStall := 0

/-- The PPU after launch (R491, R492); the memories, `vblank` and `sprite_overflow` are draws there, 0 here (log 2). -/
def Ppu.reset : Ppu where
  ctrl := 0
  mask := 0
  vblank := false
  sprite0Hit := false
  spriteOverflow := false
  oamAddr := 0
  v := 0
  t := 0
  x := 0
  w := false
  readBuffer := 0
  ioLatch := 0
  oam := []
  ciram := []
  palette := []
  scanline := 0
  dot := 0
  frameReady := false
  nmiRequest := false
  lineScroll := 0
  lineFineX := 0
  lineSprites := []
  fb := []
  fbOut := []

/-- A cartridge with nothing in it: the spec gives PRG, CHR and MIRRORING no default (00_scope.md R8; log 1). -/
def Cartridge.blank : Cartridge where
  prg := []
  prgSize := .one16K
  chr := .none
  mirroring := .horizontal

/-- The controller ports after launch (R57, R58). -/
def Io.reset : Io where
  strobe := false
  shift1 := 0
  shift2 := 0
  buttons1 := 0
  buttons2 := 0
  cpuBusLatch := 0

/-- The state after reset: the launch state of 70_reset_and_hazards.md R491 with the default parameters, the blank cartridge
(log 1) and every launch draw 0 (log 2). `launch` builds it for any cartridge, parameters and draws. -/
def State.reset : State where
  cpu := Cpu.reset
  ppu := Ppu.reset
  ram := []
  chrRam := []
  io := Io.reset
  frames := 0
  cfg := Params.default
  cart := Cartridge.blank
  draws := 0
  out := { apuEvents := [], anomalies := [], presented := [] }

end Sys2Proof.Machine
end

