-- ==== Sys2Proof/Machine/Access.lean ====
section
/-! DEFINITION. The small operations everything else is written with: the cells of a memory, bits and fields of a word, the
registers of the state, the free values. -/

namespace Sys2Proof

/-- The contents of a cell; a cell that is not listed holds 0 (log 5). -/
def Store.read {w : Nat} : Store w → Nat → BitVec w
  | [], _ => 0
  | (k, v) :: rest, a => if a = k then v else Store.read rest a

/-- The memory without a cell. -/
def Store.erase {w : Nat} : Store w → Nat → Store w
  | [], _ => []
  | (k, v) :: rest, a => if a = k then Store.erase rest a else (k, v) :: Store.erase rest a

/-- The memory with a cell listed in its place, in rising order. -/
def Store.insert {w : Nat} : Store w → Nat → BitVec w → Store w
  | [], a, v => [(a, v)]
  | (k, u) :: rest, a, v =>
    if a < k then (a, v) :: (k, u) :: rest
    else if a = k then (a, v) :: rest
    else (k, u) :: Store.insert rest a v

/-- Write a cell. Writing 0, what an unlisted cell holds, removes the entry, so that equal memories are equal lists. -/
def Store.write {w : Nat} (m : Store w) (a : Nat) (v : BitVec w) : Store w :=
  if v = 0 then m.erase a else m.insert a v

/-- The canonical form: cell numbers strictly rising, no entry that holds 0. -/
abbrev Store.wf {w : Nat} (m : Store w) : Prop := m.Pairwise (fun c d => c.1 < d.1) ∧ ∀ c ∈ m, c.2 ≠ 0

/-- The canonical form of a memory of bytes. -/
abbrev Memory.wf (m : Memory) : Prop := Store.wf m

/-- The canonical form, with every cell number below `size`. -/
abbrev Store.fits {w : Nat} (m : Store w) (size : Nat) : Prop := m.wf ∧ ∀ c ∈ m, c.1 < size

/-- A list of bytes as a memory, the first byte in cell `a`. -/
def Memory.ofBytes : Nat → List Byte → Memory
  | _, [] => []
  | a, b :: rest => if b = 0 then Memory.ofBytes (a + 1) rest else (a, b) :: Memory.ofBytes (a + 1) rest

namespace Machine

/-- `v[lo + k - 1 : lo] <- x` (00_scope.md R11). -/
def putBits {n k : Nat} (v : BitVec n) (lo : Nat) (x : BitVec k) : BitVec n :=
  (v &&& ~~~((BitVec.allOnes k).setWidth n <<< lo)) ||| (x.setWidth n <<< lo)

/-- `bitreverse8` (51_ppu_timing_rendering.md R372). -/
def bitReverse8 (b : Byte) : Byte :=
  BitVec.ofBool (b.getLsbD 0) ++ BitVec.ofBool (b.getLsbD 1) ++ BitVec.ofBool (b.getLsbD 2) ++ BitVec.ofBool (b.getLsbD 3) ++
    BitVec.ofBool (b.getLsbD 4) ++ BitVec.ofBool (b.getLsbD 5) ++ BitVec.ofBool (b.getLsbD 6) ++ BitVec.ofBool (b.getLsbD 7)

/-! ### The registers -/

def State.setCpu (s : State) (c : Cpu) : State := { s with cpu := c }
def State.setPpu (s : State) (p : Ppu) : State := { s with ppu := p }
def State.setRam (s : State) (m : Memory) : State := { s with ram := m }
def State.setChrRam (s : State) (m : Memory) : State := { s with chrRam := m }
def State.setIo (s : State) (io : Io) : State := { s with io := io }
def State.setOut (s : State) (o : Outputs) : State := { s with out := o }

def State.setA (s : State) (v : Byte) : State := s.setCpu { s.cpu with a := v }
def State.setX (s : State) (v : Byte) : State := s.setCpu { s.cpu with x := v }
def State.setY (s : State) (v : Byte) : State := s.setCpu { s.cpu with y := v }
def State.setSp (s : State) (v : Byte) : State := s.setCpu { s.cpu with sp := v }
def State.setPc (s : State) (v : Addr) : State := s.setCpu { s.cpu with pc := v }
def State.setP (s : State) (f : Flags) : State := s.setCpu { s.cpu with p := f }

/-- `io.cpu_bus_latch <- v` (20_memory.md R72, R73). -/
def State.setLatch (s : State) (v : Byte) : State := s.setIo { s.io with cpuBusLatch := v }

/-- Count `n` cycles (30_encoding.md R118). -/
def State.spend (s : State) (n : Nat) : State := s.setCpu { s.cpu with cycles := s.cpu.cycles + n }

/-! ### The free values (00_scope.md R10; log 11) -/

/-- Take a free value: the next one is another. -/
def State.nextDraw (s : State) : State := { s with draws := s.draws + 1 }

/-- `OpenBus()` (00_scope.md R13; log 6). -/
def openBus (s : State) : Byte × State := (Config.openBus s.draws, s.nextDraw)

/-- `ApuStatusRead()` (52_io_dma_controllers.md R411; log 9). -/
def apuStatusRead (s : State) : Byte × State := (Config.apuStatus s.draws, s.nextDraw)

end Machine

end Sys2Proof
end

