-- ==== Sys2Proof/Machine/Flags.lean ====
section
/-! DEFINITION. The flag computations: setZN (00_scope.md R15), addition and subtraction in binary and in decimal
(43_arithmetic.md R190 to R194), comparison (R195 to R197), BIT (44_logic_shift.md R223), shifts and rotates (R225 to R228). -/

namespace Sys2Proof.Machine

/-- `setZN(r)` (00 R15). -/
def Flags.setZN (p : Flags) (r : Byte) : Flags := { p with z := r == 0, n := r.getLsbD 7 }

/-- `setZN(r)` on the state. -/
def State.setZN (s : State) (r : Byte) : State := s.setP (s.cpu.p.setZN r)

/-- What an addition or a subtraction leaves in A and in the flags it writes. -/
structure AluResult where
  r : Byte
  n : Bool
  v : Bool
  z : Bool
  c : Bool
  deriving DecidableEq, Repr

/-- ADC in binary (R191). -/
def adcBinary (a m : Byte) (c : Bool) : AluResult :=
  let s := a.toNat + m.toNat + c.toNat
  let r := BitVec.ofNat 8 s
  { r := r, n := r.getLsbD 7, v := (a ^^^ r) &&& (m ^^^ r) &&& 0x80 != 0, z := r == 0, c := decide (s > 255) }

/-- SBC in binary (R193): the addition of the complement. -/
def sbcBinary (a m : Byte) (c : Bool) : AluResult := adcBinary a (m ^^^ 0xFF) c

/-- ADC in decimal mode (R192), with its flags on operands that are not BCD too. -/
def adcDecimal (a m : Byte) (c : Bool) : AluResult :=
  let al := a.toNat % 16 + m.toNat % 16 + c.toNat
  let al := if al ≥ 0x0A then (al + 6) % 16 + 16 else al
  let t := a.toNat / 16 * 16 + m.toNat / 16 * 16 + al
  let ts : Int := (a &&& 0xF0).toInt + (m &&& 0xF0).toInt + al
  let u := if t ≥ 0xA0 then t + 0x60 else t
  { r := BitVec.ofNat 8 u
    n := t.testBit 7
    v := decide (ts < -128 ∨ ts > 127)
    z := (a.toNat + m.toNat + c.toNat) % 256 == 0
    c := decide (u ≥ 0x100) }

/-- SBC in decimal mode (R194): the flags of the binary subtraction, A the BCD difference. -/
def sbcDecimal (a m : Byte) (c : Bool) : AluResult :=
  let al : Int := (a.toNat % 16 : Nat) - (m.toNat % 16 : Nat) + (c.toNat : Nat) - 1
  let al := if al < 0 then (al - 6) % 16 - 16 else al
  let t : Int := (a.toNat / 16 * 16 : Nat) - (m.toNat / 16 * 16 : Nat) + al
  let t := if t < 0 then t - 0x60 else t
  { sbcBinary a m c with r := BitVec.ofInt 8 t }

/-- Whether ADC and SBC use their decimal rules: `DECIMAL_MODE = nmos` and P.D = 1 (00 R9, 43 R190). -/
def decimalOn (cfg : Params) (p : Flags) : Bool := cfg.decimalMode == .nmos && p.d

/-- ADC (R191, R192). -/
def adcResult (cfg : Params) (p : Flags) (a m : Byte) : AluResult :=
  if decimalOn cfg p then adcDecimal a m p.c else adcBinary a m p.c

/-- SBC (R193, R194). -/
def sbcResult (cfg : Params) (p : Flags) (a m : Byte) : AluResult :=
  if decimalOn cfg p then sbcDecimal a m p.c else sbcBinary a m p.c

/-- The flags after ADC or SBC: N, V, Z and C. -/
def Flags.setAlu (p : Flags) (r : AluResult) : Flags := { p with n := r.n, v := r.v, z := r.z, c := r.c }

/-- The flags after a comparison of a register with M (R195 to R197): N, Z and C; V stays. -/
def Flags.compare (p : Flags) (reg m : Byte) : Flags :=
  { p with c := decide (m.toNat ≤ reg.toNat), z := reg == m, n := (reg - m).getLsbD 7 }

/-- The flags after BIT (44 R223): N and V come from the operand. -/
def Flags.bitTest (p : Flags) (a m : Byte) : Flags := { p with z := a &&& m == 0, n := m.getLsbD 7, v := m.getLsbD 6 }

/-- INC (43 R198): the new byte and the flags. -/
def incByte (v : Byte) (p : Flags) : Byte × Flags := (v + 1, p.setZN (v + 1))

/-- DEC (43 R199). -/
def decByte (v : Byte) (p : Flags) : Byte × Flags := (v - 1, p.setZN (v - 1))

/-- ASL (44 R225). -/
def aslByte (v : Byte) (p : Flags) : Byte × Flags :=
  let r := v <<< 1
  (r, { p with c := v.getLsbD 7 }.setZN r)

/-- LSR (44 R226). -/
def lsrByte (v : Byte) (p : Flags) : Byte × Flags :=
  let r := v >>> 1
  (r, { p with c := v.getLsbD 0 }.setZN r)

/-- ROL (44 R227). -/
def rolByte (v : Byte) (p : Flags) : Byte × Flags :=
  let r := (v <<< 1) ||| (BitVec.ofBool p.c).setWidth 8
  (r, { p with c := v.getLsbD 7 }.setZN r)

/-- ROR (44 R228). -/
def rorByte (v : Byte) (p : Flags) : Byte × Flags :=
  let r := ((BitVec.ofBool p.c).setWidth 8 <<< 7) ||| (v >>> 1)
  (r, { p with c := v.getLsbD 0 }.setZN r)

end Sys2Proof.Machine
end

