-- ==== Sys2Proof/Machine/Cartridge.lean ====
section
/-! DEFINITION. The cartridge window (20_memory.md R77) and the container a cartridge comes from (R86). -/

namespace Sys2Proof.Machine

/-- `len(PRG)`. -/
def PrgSize.bytes : PrgSize → Nat
  | .one16K => 16384
  | .two16K => 32768

/-- `PRG[(a - 0x8000) mod len(PRG)]`, for a in 0x8000..0xFFFF (R77). -/
def Cartridge.prgByte (c : Cartridge) (a : Addr) : Byte := c.prg.read ((a.toNat - 0x8000) % c.prgSize.bytes)

/-- `mapRead(a)` of mapper 0 (R77): PRG from 0x8000 up, open bus below. -/
def mapRead (a : Addr) (s : State) : Byte × State :=
  if 0x8000 ≤ a.toNat then (s.cart.prgByte a, s) else openBus s

/-- `mapWrite(a, v)` of mapper 0 (R77): no effect. -/
def mapWrite (_a : Addr) (_v : Byte) (s : State) : State := s

/-- Why a container is not launched (R86; 93_implementation_defined.md U7, U8, U9). -/
inductive LoadError where
  | formatError
  | unsupportedMapper
  | unsupportedCartridge
  deriving DecidableEq, Repr

/-- `load(c)` (R86): the cartridge a container image describes, or why it is refused, in the order the rule tests. -/
def loadContainer (c : List Byte) : Except LoadError Cartridge :=
  let prgN := (c.getD 4 0).toNat
  let chrN := (c.getD 5 0).toNat
  let flags6 := c.getD 6 0
  let mapper : Byte := (c.getD 7 0).extractLsb' 4 4 ++ flags6.extractLsb' 4 4
  let off := 16 + (if flags6.getLsbD 2 then 512 else 0)
  if c.length < 16 ∨ c.take 4 ≠ [0x4E, 0x45, 0x53, 0x1A] then .error .formatError
  else if c.length < off + 16384 * prgN + 8192 * chrN then .error .formatError
  else if mapper ≠ 0 then .error .unsupportedMapper
  else if ¬(prgN = 1 ∨ prgN = 2) ∨ ¬(chrN = 0 ∨ chrN = 1) ∨ flags6.getLsbD 3 then .error .unsupportedCartridge
  else .ok
    { prg := Memory.ofBytes 0 ((c.drop off).take (16384 * prgN))
      prgSize := if prgN = 1 then .one16K else .two16K
      chr := if chrN = 0 then .none else .rom (Memory.ofBytes 0 ((c.drop (off + 16384 * prgN)).take 8192))
      mirroring := if flags6.getLsbD 0 then .vertical else .horizontal }

end Sys2Proof.Machine
end

