-- ==== Sys2Proof/Machine/Io.lean ====
section
/-! DEFINITION. The controller ports and the external APU (52_io_dma_controllers.md R405 to R412). OAM DMA, which reads through
the bus, is in Machine/Ops.lean. -/

namespace Sys2Proof.Machine

/-- The two controller ports (R409). -/
inductive Port where
  | one
  | two
  deriving DecidableEq, Repr

def Io.buttons (io : Io) : Port → Byte
  | .one => io.buttons1
  | .two => io.buttons2

def Io.shift (io : Io) : Port → Byte
  | .one => io.shift1
  | .two => io.shift2

def Io.setShift (io : Io) (v : Byte) : Port → Io
  | .one => { io with shift1 := v }
  | .two => { io with shift2 := v }

/-- `ControllerStrobe(d)` (R405). -/
def controllerStrobe (d : Byte) (io : Io) : Io :=
  let io := if io.strobe || d.getLsbD 0 then { io with shift1 := io.buttons1, shift2 := io.buttons2 } else io
  { io with strobe := d.getLsbD 0 }

/-- The serial data bit a read of a port finds (R406). -/
def Io.serialBit (io : Io) (k : Port) : Bool := if io.strobe then (io.buttons k).getLsbD 0 else (io.shift k).getLsbD 0

/-- What a read of a port does to its shift register (R406). -/
def Io.afterRead (io : Io) (k : Port) : Io := if io.strobe then io else io.setShift ((io.shift k >>> 1) ||| 0x80) k

/-- `ControllerRead(k)` (R406): bits 7:5 open bus, bits 4:1 zero, bit 0 the serial data. -/
def controllerRead (k : Port) (s : State) : Byte × State :=
  let ob := openBus s
  (ob.1.extractLsb' 5 3 ++ (0 : BitVec 4) ++ BitVec.ofBool (s.io.serialBit k), ob.2.setIo (s.io.afterRead k))

/-- `ApuWrite(a, d)` (R411): the event goes to the APU, in program order; the block keeps no APU state (log 15). -/
def apuWrite (a : Addr) (d : Byte) (s : State) : State := s.setOut { s.out with apuEvents := (a, d) :: s.out.apuEvents }

/-- `IoRead(a)`, for a in 0x4000..0x401F (R401). -/
def ioRead (a : Addr) (s : State) : Byte × State :=
  if a = 0x4016 then controllerRead .one s
  else if a = 0x4017 then controllerRead .two s
  else if a = 0x4015 then apuStatusRead s
  else openBus s

end Sys2Proof.Machine
end

