-- ==== Sys2Proof/Machine/PpuMemory.lean ====
section
/-! DEFINITION. The PPU's own address space (20_memory.md R90 to R94). -/

namespace Sys2Proof.Machine

/-- What the PPU sees and a dot does not change: the parameters, the cartridge and CHR RAM. -/
structure PpuEnv where
  cfg    : Params
  cart   : Cartridge
  chrRam : Memory
  deriving DecidableEq, Repr

def State.env (s : State) : PpuEnv := { cfg := s.cfg, cart := s.cart, chrRam := s.chrRam }

/-- `chr_read(a)`, for a in 0x0000..0x1FFF (R91). -/
def PpuEnv.chrRead (e : PpuEnv) (a : PpuAddr) : Byte :=
  match e.cart.chr with
  | .rom bytes => bytes.read a.toNat
  | .none => e.chrRam.read a.toNat

/-- `nt_index(a)`, for a in 0x2000..0x3EFF (R92). -/
def ntIndex (m : Mirroring) (a : PpuAddr) : Nat :=
  let n := (a.toNat - 0x2000) % 0x1000
  let table := n / 0x400
  let page := match m with
    | .horizontal => table / 2
    | .vertical => table % 2
  page * 0x400 + n % 0x400

/-- `pal_index(a)`, for a in 0x3F00..0x3FFF (R93). -/
def palIndex (a : PpuAddr) : Nat :=
  let i := a.toNat % 0x20
  if i = 0x10 ∨ i = 0x14 ∨ i = 0x18 ∨ i = 0x1C then i - 0x10 else i

/-- The six stored bits of a palette address: `VramRead(a)[5:0]` there (R93). -/
def Ppu.colour (p : Ppu) (a : PpuAddr) : BitVec 6 := p.palette.read (palIndex a)

/-- `VramRead(a)` (R90); `ob` is the open-bus byte whose bits 7:6 a palette read shows. -/
def vramRead (e : PpuEnv) (p : Ppu) (ob : Byte) (a : PpuAddr) : Byte :=
  if a.toNat ≤ 0x1FFF then e.chrRead a
  else if a.toNat ≤ 0x3EFF then p.ciram.read (ntIndex e.cart.mirroring a)
  else ob.extractLsb' 6 2 ++ p.colour a

/-- `VramRead(a)` at an address below 0x3F00, where no bit is open bus: how rendering reads patterns and nametables. -/
def vramByte (e : PpuEnv) (p : Ppu) (a : Nat) : Byte := vramRead e p 0 (BitVec.ofNat 14 a)

/-- `VramWrite(a, d)` (R90): CHR ROM ignores it (R91), the palette keeps six bits (R93). -/
def vramWrite (a : PpuAddr) (d : Byte) (s : State) : State :=
  if a.toNat ≤ 0x1FFF then
    match s.cart.chr with
    | .rom _ => s
    | .none => s.setChrRam (s.chrRam.write a.toNat d)
  else if a.toNat ≤ 0x3EFF then
    s.setPpu { s.ppu with ciram := s.ppu.ciram.write (ntIndex s.cart.mirroring a) d }
  else
    s.setPpu { s.ppu with palette := s.ppu.palette.write (palIndex a) (d.extractLsb' 0 6) }

end Sys2Proof.Machine
end

