-- ==== Sys2Proof/Machine/PpuRegs.lean ====
section
/-! DEFINITION. The PPU's eight memory-mapped registers (50_ppu_registers.md R300 to R322). -/

namespace Sys2Proof.Machine

/-- The eight registers, in the order of their select value (20_memory.md R75). -/
inductive PpuReg where
  | control
  | mask
  | status
  | oamAddr
  | oamData
  | scroll
  | address
  | data
  deriving DecidableEq, Repr

/-- The register of a select value, `a mod 8` (20_memory.md R75). -/
def PpuReg.ofSelect (sel : Nat) : PpuReg :=
  match sel with
  | 0 => .control
  | 1 => .mask
  | 2 => .status
  | 3 => .oamAddr
  | 4 => .oamData
  | 5 => .scroll
  | 6 => .address
  | _ => .data

/-- "Rendering enabled": `mask[3] == 1 or mask[4] == 1` (R305). -/
def Ppu.renderingEnabled (p : Ppu) : Bool := p.mask.getLsbD 3 || p.mask.getLsbD 4

/-- `Increment()` (R315): 1 or 32 by Control bit 2, modulo 2^15. -/
def Ppu.increment (p : Ppu) : Ppu := { p with v := p.v + (if p.ctrl.getLsbD 2 then 32 else 1) }

/-- `CtrlWrite(d)` (R301). -/
def ctrlWrite (cfg : Params) (d : Byte) (p : Ppu) : Ppu :=
  let raise := cfg.nmiOnCtrlEnable && !p.ctrl.getLsbD 7 && d.getLsbD 7 && p.vblank
  { p with ctrl := d, t := putBits p.t 10 (d.extractLsb' 0 2), nmiRequest := p.nmiRequest || raise }

/-- `MaskWrite(d)` (R304). -/
def maskWrite (d : Byte) (p : Ppu) : Ppu := { p with mask := d }

/-- `OamAddrWrite(d)` (R308). -/
def oamAddrWrite (d : Byte) (p : Ppu) : Ppu := { p with oamAddr := d }

/-- `OamDataWrite(d)` (R310). -/
def oamDataWrite (d : Byte) (p : Ppu) : Ppu :=
  { p with oam := p.oam.write p.oamAddr.toNat d, oamAddr := p.oamAddr + 1 }

/-- `ScrollWrite(d)` (R311). -/
def scrollWrite (d : Byte) (p : Ppu) : Ppu :=
  if p.w then
    { p with t := putBits (putBits p.t 12 (d.extractLsb' 0 3)) 5 (d.extractLsb' 3 5), w := false }
  else
    { p with t := putBits p.t 0 (d.extractLsb' 3 5), x := d.extractLsb' 0 3, w := true }

/-- `AddrWrite(d)` (R312). -/
def addrWrite (d : Byte) (p : Ppu) : Ppu :=
  if p.w then
    let t := putBits p.t 0 d
    { p with t := t, v := t, w := false }
  else
    { p with t := putBits (putBits p.t 8 (d.extractLsb' 0 6)) 14 (0 : BitVec 1), w := true }

/-- The PPU address a Data access uses, `v[13:0]` (R313, R314). -/
def Ppu.dataAddr (p : Ppu) : PpuAddr := p.v.extractLsb' 0 14

/-- `DataWrite(d)` (R314). -/
def dataWrite (d : Byte) (s : State) : State :=
  let s := vramWrite s.ppu.dataAddr d s
  s.setPpu s.ppu.increment

/-- `PpuRegWrite(sel, d)` (R321). A write to Status changes nothing but the latch (R307). -/
def ppuRegWrite (r : PpuReg) (d : Byte) (s : State) : State :=
  let s := s.setPpu { s.ppu with ioLatch := d }
  match r with
  | .control => s.setPpu (ctrlWrite s.cfg d s.ppu)
  | .mask => s.setPpu (maskWrite d s.ppu)
  | .status => s
  | .oamAddr => s.setPpu (oamAddrWrite d s.ppu)
  | .oamData => s.setPpu (oamDataWrite d s.ppu)
  | .scroll => s.setPpu (scrollWrite d s.ppu)
  | .address => s.setPpu (addrWrite d s.ppu)
  | .data => dataWrite d s

/-- `StatusRead()` (R306): the three flags with five open-bus bits; VBlank is cleared and the toggle reset. -/
def statusRead (s : State) : Byte × State :=
  let ob := openBus s
  let p := ob.2.ppu
  let r : Byte := BitVec.ofBool p.vblank ++ BitVec.ofBool p.sprite0Hit ++ BitVec.ofBool p.spriteOverflow ++ ob.1.extractLsb' 0 5
  (r, ob.2.setPpu { p with vblank := false, w := false })

/-- `OamDataRead()` (R309): attribute bytes read with bits 4:2 clear; the cursor stays. -/
def oamDataRead (p : Ppu) : Byte :=
  let r := p.oam.read p.oamAddr.toNat
  if p.oamAddr.toNat % 4 = 2 then r &&& 0xE3 else r

/-- `DataRead()` (R313): buffered below 0x3F00; at once from the palette, with the buffer refilled from 0x1000 below. -/
def dataRead (s : State) : Byte × State :=
  let a := s.ppu.dataAddr
  if a.toNat < 0x3F00 then
    let p := { s.ppu with readBuffer := vramRead s.env s.ppu 0 a }
    (s.ppu.readBuffer, s.setPpu p.increment)
  else
    let ob := openBus s
    let r := vramRead s.env s.ppu ob.1 a
    let p := { s.ppu with readBuffer := vramRead s.env s.ppu 0 (a - 0x1000) }
    (r, ob.2.setPpu p.increment)

/-- The read of each register by its own rule (R320), before the latch is set. -/
def ppuRegValue (r : PpuReg) (s : State) : Byte × State :=
  match r with
  | .control | .mask | .oamAddr | .scroll | .address => openBus s
  | .status => statusRead s
  | .oamData => (oamDataRead s.ppu, s)
  | .data => dataRead s

/-- `PpuRegRead(sel)` (R320). -/
def ppuRegRead (r : PpuReg) (s : State) : Byte × State :=
  let v := ppuRegValue r s
  (v.1, v.2.setPpu { v.2.ppu with ioLatch := v.1 })

end Sys2Proof.Machine
end

