-- ==== Sys2Proof/Machine/Ops.lean ====
section
/-! DEFINITION. The operations over memory and registers every meaning is written with: the bus router and its reads and writes
(20_memory.md R71 to R84), OAM DMA (52_io_dma_controllers.md R402, R403), the stack (00_scope.md R13), taking an interrupt and
returning from one (60_exceptions.md R463; 46_flags_system.md R276). -/

namespace Sys2Proof.Machine

/-! ### The bus -/

/-- The owner of a CPU address, with what it selects there (R71). -/
inductive Owner where
  | ram (cell : Nat)
  | ppuReg (r : PpuReg)
  | apuIo (a : Addr)
  | cart (a : Addr)
  deriving DecidableEq, Repr

/-- `route(a)` (R71): total, so every address has exactly one owner (R78). -/
def route (a : Addr) : Owner :=
  if a.toNat ≤ 0x1FFF then .ram (a.toNat % 0x800)
  else if a.toNat ≤ 0x3FFF then .ppuReg (PpuReg.ofSelect (a.toNat % 8))
  else if a.toNat ≤ 0x401F then .apuIo a
  else .cart a

/-- The read of each owner (R72), before the bus latch is set. -/
def ownerRead (o : Owner) (s : State) : Byte × State :=
  match o with
  | .ram cell => (s.ram.read cell, s)
  | .ppuReg r => ppuRegRead r s
  | .apuIo a => ioRead a s
  | .cart a => mapRead a s

/-- `MemRead(a, 1)` (R72). -/
def memRead (a : Addr) (s : State) : Byte × State :=
  let r := ownerRead (route a) s
  (r.1, r.2.setLatch r.1)

/-- `DmaCycles()` (52 R403). The counter already holds the writing instruction's base count and penalty here, so it is
`c_end` (log 12). -/
def dmaCycles (s : State) : Nat × State :=
  match s.cfg.dmaCycles with
  | .parity => (513 + s.cpu.cycles % 2, s)
  | .draw => (513 + (Config.dmaExtraCycle s.draws).toNat, s.nextDraw)

/-- The copy of `OamDma(d)` (52 R402): `n` bytes left, the next one at offset `i` of page `d`. -/
def oamDmaCopy (d : Byte) : Nat → Nat → State → State
  | 0, _, s => s
  | n + 1, i, s =>
    let r := memRead (addrOf d (BitVec.ofNat 8 i)) s
    let p := r.2.ppu
    oamDmaCopy d n (i + 1) (r.2.setPpu { p with oam := p.oam.write ((p.oamAddr.toNat + i) % 256) r.1 })

/-- `OamDma(d)` (52 R402): 256 bytes in order, then the stall. -/
def oamDma (d : Byte) (s : State) : State :=
  let s := oamDmaCopy d 256 0 s
  let c := dmaCycles s
  c.2.setCpu { c.2.cpu with dmaStall := c.1 }

/-- `IoWrite(a, d)`, for a in 0x4000..0x401F (52 R401). -/
def ioWrite (a : Addr) (d : Byte) (s : State) : State :=
  if a = 0x4014 then oamDma d s
  else if a = 0x4016 then s.setIo (controllerStrobe d s.io)
  else if a.toNat ≤ 0x4017 then apuWrite a d s
  else s

/-- The write of each owner (R73), before the bus latch is set. -/
def ownerWrite (o : Owner) (v : Byte) (s : State) : State :=
  match o with
  | .ram cell => s.setRam (s.ram.write cell v)
  | .ppuReg r => ppuRegWrite r v s
  | .apuIo a => ioWrite a v s
  | .cart a => mapWrite a v s

/-- `MemWrite(a, 1, v)` (R73). -/
def memWrite (a : Addr) (v : Byte) (s : State) : State := (ownerWrite (route a) v s).setLatch v

/-- `Read16(a)` (00 R13): the low byte first, then the high byte at `(a + 1) mod 65536`. -/
def read16 (a : Addr) (s : State) : Addr × State :=
  let lo := memRead a s
  let hi := memRead (a + 1) lo.2
  (addrOf hi.1 lo.1, hi.2)

/-- A pointer read whose high byte comes from the same page as its low byte: `Read16ZP` in page 0 (00 R13, 40 R148, R149), and
the pointer of JMP indirect in any page (40 R154). -/
def read16InPage (page z : Byte) (s : State) : Addr × State :=
  let lo := memRead (addrOf page z) s
  let hi := memRead (addrOf page (z + 1)) lo.2
  (addrOf hi.1 lo.1, hi.2)

/-! ### The stack -/

/-- The address of the stack byte SP addresses, in page 1 (10 R22). -/
def stackAddr (sp : Byte) : Addr := addrOf 0x01 sp

/-- `Push(v)` (00 R13). -/
def push (v : Byte) (s : State) : State :=
  let s := memWrite (stackAddr s.cpu.sp) v s
  s.setSp (s.cpu.sp - 1)

/-- `Pull()` (00 R13). -/
def pull (s : State) : Byte × State :=
  let s := s.setSp (s.cpu.sp + 1)
  memRead (stackAddr s.cpu.sp) s

/-- Push a 16-bit value, the high byte first (20 R81). -/
def pushWord (a : Addr) (s : State) : State := push (loByte a) (push (hiByte a) s)

/-- Pull a 16-bit value, the low byte first (45 R252, 46 R276). -/
def pullWord (s : State) : Addr × State :=
  let lo := pull s
  let hi := pull lo.2
  (addrOf hi.1 lo.1, hi.2)

/-- The byte a push of P writes, `{N, V, U, b, D, I, Z, C}`: bit 4 is what the pushing rule says, bit 5 the stored U
(10 R24, R29, R30). -/
def Flags.pushByte (p : Flags) (brk : Bool) : Byte :=
  BitVec.ofBool p.n ++ BitVec.ofBool p.v ++ BitVec.ofBool p.u ++ BitVec.ofBool brk ++
    BitVec.ofBool p.d ++ BitVec.ofBool p.i ++ BitVec.ofBool p.z ++ BitVec.ofBool p.c

/-- What PLP and RTI take from a pulled status byte: N, V, D, I, Z and C; B and U stay (42 R184, 46 R276). -/
def Flags.restore (p : Flags) (v : Byte) : Flags :=
  { p with n := v.getLsbD 7, v := v.getLsbD 6, d := v.getLsbD 3, i := v.getLsbD 2, z := v.getLsbD 1, c := v.getLsbD 0 }

/-! ### Interrupts (60_exceptions.md R463) -/

def nmiVector : Addr := 0xFFFA
def resetVector : Addr := 0xFFFC
def irqVector : Addr := 0xFFFE

/-- Entering a handler, for NMI, IRQ and BRK alike: the return address and the status are pushed, with bit 4 as given, I is
set, and the PC is read from the vector (60 R463, 46 R275). -/
def enterInterrupt (ret : Addr) (brk : Bool) (vector : Addr) (s : State) : State :=
  let s := pushWord ret s
  let s := push (s.cpu.p.pushByte brk) s
  let s := s.setP { s.cpu.p with i := true }
  let r := read16 vector s
  r.2.setPc r.1

/-- `ServiceInterrupt(vector)` (60 R463): PC is the address of the next instruction; Break is pushed clear. -/
def serviceInterrupt (vector : Addr) (s : State) : State := enterInterrupt s.cpu.pc false vector s

/-- Returning from a handler: status, then PC low, then PC high (46 R276, 60 R467). -/
def returnFromInterrupt (s : State) : State :=
  let st := pull s
  let s := st.2.setP (st.2.cpu.p.restore st.1)
  let ret := pullWord s
  ret.2.setPc ret.1

end Sys2Proof.Machine
end

