-- ==== Sys2Proof/Machine/Operands.lean ====
section
/-! DEFINITION. Addressing modes, their cycle counts, and the four ways an instruction uses its operand
(40_addressing_modes.md R140 to R156; 30_encoding.md R117, R118).

The cycles of an instruction are counted when its addressing mode is resolved, before its data access (log 12). -/

namespace Sys2Proof.Machine

/-- What an addressing mode yields (R140). -/
structure Resolved where
  ea      : Addr
  crossed : Bool
  deriving DecidableEq, Repr

/-- An indexed address, with whether it lies in another page than its base (R146, R147, R149). -/
def indexed (base : Addr) (index : Byte) : Resolved :=
  let ea := base + zeroPage index
  { ea := ea, crossed := hiByte base != hiByte ea }

/-- The effective address of a mode (R142 to R149), with the state after its pointer reads. -/
def resolve (m : EaMode) (s : State) : Resolved × State :=
  match m with
  | .zp zz => ({ ea := zeroPage zz, crossed := false }, s)
  | .zpx zz => ({ ea := zeroPage (zz + s.cpu.x), crossed := false }, s)
  | .zpy zz => ({ ea := zeroPage (zz + s.cpu.y), crossed := false }, s)
  | .abs base => ({ ea := base, crossed := false }, s)
  | .abx base => (indexed base s.cpu.x, s)
  | .aby base => (indexed base s.cpu.y, s)
  | .izx zz =>
    let p := read16InPage 0 (zz + s.cpu.x) s
    ({ ea := p.1, crossed := false }, p.2)
  | .izy zz =>
    let p := read16InPage 0 zz s
    (indexed p.1 s.cpu.y, p.2)

/-- The base count of a read-class instruction with a memory operand (R117). -/
def readCycles : EaMode → Nat
  | .zp _ => 3
  | .zpx _ | .zpy _ => 4
  | .abs _ | .abx _ | .aby _ => 4
  | .izx _ => 6
  | .izy _ => 5

/-- The count of a store (R117): no penalty (R155). -/
def storeCycles : EaMode → Nat
  | .zp _ => 3
  | .zpx _ | .zpy _ => 4
  | .abs _ => 4
  | .abx _ | .aby _ => 5
  | .izx _ | .izy _ => 6

/-- The count of a read-modify-write (R117): two more than a store of the same mode; no penalty (R155). -/
def modifyCycles (m : EaMode) : Nat := storeCycles m + 2

/-- Read the byte at a mode's effective address, once, at the read-class count: one more cycle when the page is crossed (R155,
R156). -/
def readMem (m : EaMode) (s : State) : Byte × State :=
  let r := resolve m s
  memRead r.1.ea (r.2.spend (readCycles m + r.1.crossed.toNat))

/-- The operand value M of a read-class instruction (R150, R156). -/
def readOperand (o : ReadOperand) (s : State) : Byte × State :=
  match o with
  | .imm nn => (nn, s.spend 2)
  | .mem m => readMem m s

/-- Write a byte at a mode's effective address, once, with no read (R156). -/
def storeMem (m : EaMode) (v : Byte) (s : State) : State :=
  let r := resolve m s
  memWrite r.1.ea v (r.2.spend (storeCycles m))

/-- Read-modify-write (R156): one read, then one write of `f M`; `f` gives the new flags too. -/
def modifyMem (m : EaMode) (f : Byte → Flags → Byte × Flags) (s : State) : State :=
  let r := resolve m s
  let v := memRead r.1.ea (r.2.spend (modifyCycles m))
  let w := f v.1 v.2.cpu.p
  let s := memWrite r.1.ea w.1 v.2
  s.setP w.2

/-- The same on the accumulator (R152): 2 cycles, no memory access. -/
def modifyAcc (f : Byte → Flags → Byte × Flags) (s : State) : State :=
  let w := f s.cpu.a s.cpu.p
  ((s.spend 2).setA w.1).setP w.2

/-- The operand of a shift or rotate. -/
def modifyOperand (o : ShiftOperand) (f : Byte → Flags → Byte × Flags) (s : State) : State :=
  match o with
  | .acc => modifyAcc f s
  | .mem m => modifyMem m f s

/-- The target of a relative branch (R153): PC is already past the instruction. -/
def branchTarget (pc : Addr) (oo : Byte) : Addr := pc + oo.signExtend 16

/-- The branch of 45_control_flow.md R240. -/
def branch (cond : Bool) (oo : Byte) (s : State) : State :=
  if cond then
    let target := branchTarget s.cpu.pc oo
    (s.spend (2 + 1 + (hiByte s.cpu.pc != hiByte target).toNat)).setPc target
  else s.spend 2

end Sys2Proof.Machine
end

