-- ==== Sys2Proof/Machine/Arith.lean ====
section
/-! DEFINITION. Arithmetic, compare, increment and decrement instructions (43_arithmetic.md R190 to R203). -/

namespace Sys2Proof.Machine

/-- ADC and SBC: A and the four flags from the result (R191 to R194). -/
def arith (f : Params → Flags → Byte → Byte → AluResult) (o : ReadOperand) (s : State) : State :=
  let m := readOperand o s
  let r := f s.cfg s.cpu.p s.cpu.a m.1
  (m.2.setA r.r).setP (m.2.cpu.p.setAlu r)

/-- CMP, CPX and CPY: N, Z and C of a register against M (R195 to R197). -/
def compare (reg : Byte) (o : ReadOperand) (s : State) : State :=
  let m := readOperand o s
  m.2.setP (m.2.cpu.p.compare reg m.1)

/-- An increment or decrement of a register: 2 cycles, Z and N of the new value (R200 to R203). -/
def stepRegister (set : State → Byte → State) (v : Byte) (s : State) : State := (set (s.spend 2) v).setZN v

/-- ADC (R191; in decimal mode R192). -/
def execAdc (o : ReadOperand) (s : State) : Host.Outcome State Fault Refusal := 
  .next (arith adcResult o s)

/-- SBC (R193; in decimal mode R194). -/
def execSbc (o : ReadOperand) (s : State) : Host.Outcome State Fault Refusal := 
  .next (arith sbcResult o s)

/-- CMP: A is not written (R195). -/
def execCmp (o : ReadOperand) (s : State) : Host.Outcome State Fault Refusal := 
  .next (compare s.cpu.a o s)

/-- CPX (R196). -/
def execCpx (o : ReadOperand) (s : State) : Host.Outcome State Fault Refusal := 
  .next (compare s.cpu.x o s)

/-- CPY (R197). -/
def execCpy (o : ReadOperand) (s : State) : Host.Outcome State Fault Refusal := 
  .next (compare s.cpu.y o s)

/-- INC: one read, one write, Z and N (R198). -/
def execInc (m : EaMode) (s : State) : Host.Outcome State Fault Refusal := 
  .next (modifyMem m incByte s)

/-- DEC (R199). -/
def execDec (m : EaMode) (s : State) : Host.Outcome State Fault Refusal := 
  .next (modifyMem m decByte s)

/-- INX (R200). -/
def execInx (s : State) : Host.Outcome State Fault Refusal := 
  .next (stepRegister State.setX (s.cpu.x + 1) s)

/-- INY (R201). -/
def execIny (s : State) : Host.Outcome State Fault Refusal := 
  .next (stepRegister State.setY (s.cpu.y + 1) s)

/-- DEX (R202). -/
def execDex (s : State) : Host.Outcome State Fault Refusal := 
  .next (stepRegister State.setX (s.cpu.x - 1) s)

/-- DEY (R203). -/
def execDey (s : State) : Host.Outcome State Fault Refusal := 
  .next (stepRegister State.setY (s.cpu.y - 1) s)

end Sys2Proof.Machine
end

