-- ==== Sys2Proof/Machine/Control.lean ====
section
/-! DEFINITION. Control-transfer instructions (45_control_flow.md R240 to R252). PC is past the instruction when one runs
(30_encoding.md R114). -/

namespace Sys2Proof.Machine

/-- `PC <- pointer`, read within the pointer's page (R250, 40_addressing_modes.md R154). -/
def jumpThrough (pointer : Addr) (s : State) : State :=
  let t := read16InPage (hiByte pointer) (loByte pointer) s
  t.2.setPc t.1

/-- Push the address of the last byte of the JSR, and jump (R251). -/
def callSubroutine (target : Addr) (s : State) : State := (pushWord (s.cpu.pc - 1) s).setPc target

/-- Pull the return address and add 1 (R252). -/
def returnFromSubroutine (s : State) : State :=
  let r := pullWord s
  r.2.setPc (r.1 + 1)

/-- BCC: branch if C = 0 (R241). -/
def execBcc (oo : Byte) (s : State) : Host.Outcome State Fault Refusal := 
  .next (branch (!s.cpu.p.c) oo s)

/-- BCS: branch if C = 1 (R242). -/
def execBcs (oo : Byte) (s : State) : Host.Outcome State Fault Refusal := 
  .next (branch s.cpu.p.c oo s)

/-- BEQ: branch if Z = 1 (R243). -/
def execBeq (oo : Byte) (s : State) : Host.Outcome State Fault Refusal := 
  .next (branch s.cpu.p.z oo s)

/-- BMI: branch if N = 1 (R244). -/
def execBmi (oo : Byte) (s : State) : Host.Outcome State Fault Refusal := 
  .next (branch s.cpu.p.n oo s)

/-- BNE: branch if Z = 0 (R245). -/
def execBne (oo : Byte) (s : State) : Host.Outcome State Fault Refusal := 
  .next (branch (!s.cpu.p.z) oo s)

/-- BPL: branch if N = 0 (R246). -/
def execBpl (oo : Byte) (s : State) : Host.Outcome State Fault Refusal := 
  .next (branch (!s.cpu.p.n) oo s)

/-- BVC: branch if V = 0 (R247). -/
def execBvc (oo : Byte) (s : State) : Host.Outcome State Fault Refusal := 
  .next (branch (!s.cpu.p.v) oo s)

/-- BVS: branch if V = 1 (R248). -/
def execBvs (oo : Byte) (s : State) : Host.Outcome State Fault Refusal := 
  .next (branch s.cpu.p.v oo s)

/-- JMP absolute (R249). -/
def execJmp (target : Addr) (s : State) : Host.Outcome State Fault Refusal := 
  .next ((s.spend 3).setPc target)

/-- JMP indirect (R250). -/
def execJmpInd (pointer : Addr) (s : State) : Host.Outcome State Fault Refusal := 
  .next (jumpThrough pointer (s.spend 5))

/-- JSR (R251). -/
def execJsr (target : Addr) (s : State) : Host.Outcome State Fault Refusal := 
  .next (callSubroutine target (s.spend 6))

/-- RTS (R252). -/
def execRts (s : State) : Host.Outcome State Fault Refusal := 
  .next (returnFromSubroutine (s.spend 6))

end Sys2Proof.Machine
end

