-- ==== Sys2Proof/Machine/LoadStore.lean ====
section
/-! DEFINITION. Load, store and register-transfer instructions (41_load_store_transfer.md R160 to R172). -/

namespace Sys2Proof.Machine

/-- A load: read the operand, write the register, set Z and N of it (R161 to R163). -/
def load (set : State → Byte → State) (o : ReadOperand) (s : State) : State :=
  let m := readOperand o s
  (set m.2 m.1).setZN m.1

/-- A transfer to a register with Z and N: 2 cycles (R167 to R171). -/
def transfer (set : State → Byte → State) (v : Byte) (s : State) : State := (set (s.spend 2) v).setZN v

/-- LDA: `A <- M; setZN(A)` (R161). -/
def execLda (o : ReadOperand) (s : State) : Host.Outcome State Fault Refusal := 
  .next (load State.setA o s)

/-- LDX: `X <- M; setZN(X)` (R162). -/
def execLdx (o : ReadOperand) (s : State) : Host.Outcome State Fault Refusal := 
  .next (load State.setX o s)

/-- LDY: `Y <- M; setZN(Y)` (R163). -/
def execLdy (o : ReadOperand) (s : State) : Host.Outcome State Fault Refusal := 
  .next (load State.setY o s)

/-- STA: `MemWrite(EA, 1, A)`; no flag (R164). -/
def execSta (m : EaMode) (s : State) : Host.Outcome State Fault Refusal := 
  .next (storeMem m s.cpu.a s)

/-- STX: `MemWrite(EA, 1, X)`; no flag (R165). -/
def execStx (m : EaMode) (s : State) : Host.Outcome State Fault Refusal := 
  .next (storeMem m s.cpu.x s)

/-- STY: `MemWrite(EA, 1, Y)`; no flag (R166). -/
def execSty (m : EaMode) (s : State) : Host.Outcome State Fault Refusal := 
  .next (storeMem m s.cpu.y s)

/-- TAX: `X <- A; setZN(X)` (R167). -/
def execTax (s : State) : Host.Outcome State Fault Refusal := 
  .next (transfer State.setX s.cpu.a s)

/-- TAY: `Y <- A; setZN(Y)` (R168). -/
def execTay (s : State) : Host.Outcome State Fault Refusal := 
  .next (transfer State.setY s.cpu.a s)

/-- TXA: `A <- X; setZN(A)` (R169). -/
def execTxa (s : State) : Host.Outcome State Fault Refusal := 
  .next (transfer State.setA s.cpu.x s)

/-- TYA: `A <- Y; setZN(A)` (R170). -/
def execTya (s : State) : Host.Outcome State Fault Refusal := 
  .next (transfer State.setA s.cpu.y s)

/-- TSX: `X <- SP; setZN(X)` (R171). -/
def execTsx (s : State) : Host.Outcome State Fault Refusal := 
  .next (transfer State.setX s.cpu.sp s)

/-- TXS: `SP <- X`; the only transfer that sets no flag (R172). -/
def execTxs (s : State) : Host.Outcome State Fault Refusal := 
  .next ((s.spend 2).setSp s.cpu.x)

end Sys2Proof.Machine
end

