-- ==== Sys2Proof/Machine/Logic.lean ====
section
/-! DEFINITION. Logic, bit-test, shift and rotate instructions (44_logic_shift.md R220 to R228). -/

namespace Sys2Proof.Machine

/-- AND, ORA and EOR: A and M through `f`, Z and N of the result (R221, R222, R224). -/
def logic (f : Byte → Byte → Byte) (o : ReadOperand) (s : State) : State :=
  let m := readOperand o s
  let r := f s.cpu.a m.1
  (m.2.setA r).setZN r

/-- BIT: Z of `A & M`, N and V from M; A is not written (R223). -/
def bitTestMem (m : EaMode) (s : State) : State :=
  let v := readMem m s
  v.2.setP (v.2.cpu.p.bitTest s.cpu.a v.1)

/-- AND: `A <- A & M; setZN(A)` (R221). -/
def execAnd (o : ReadOperand) (s : State) : Host.Outcome State Fault Refusal := 
  .next (logic (fun a m => a &&& m) o s)

/-- ORA: `A <- A | M; setZN(A)` (R222). -/
def execOra (o : ReadOperand) (s : State) : Host.Outcome State Fault Refusal := 
  .next (logic (fun a m => a ||| m) o s)

/-- BIT (R223). -/
def execBit (m : EaMode) (s : State) : Host.Outcome State Fault Refusal := 
  .next (bitTestMem m s)

/-- EOR: `A <- A ^ M; setZN(A)` (R224). -/
def execEor (o : ReadOperand) (s : State) : Host.Outcome State Fault Refusal := 
  .next (logic (fun a m => a ^^^ m) o s)

/-- ASL (R225). -/
def execAsl (o : ShiftOperand) (s : State) : Host.Outcome State Fault Refusal := 
  .next (modifyOperand o aslByte s)

/-- LSR (R226). -/
def execLsr (o : ShiftOperand) (s : State) : Host.Outcome State Fault Refusal := 
  .next (modifyOperand o lsrByte s)

/-- ROL (R227). -/
def execRol (o : ShiftOperand) (s : State) : Host.Outcome State Fault Refusal := 
  .next (modifyOperand o rolByte s)

/-- ROR (R228). -/
def execRor (o : ShiftOperand) (s : State) : Host.Outcome State Fault Refusal := 
  .next (modifyOperand o rorByte s)

end Sys2Proof.Machine
end

