-- ==== Sys2Proof/Machine/Stack.lean ====
section
/-! DEFINITION. Stack instructions (42_stack.md R180 to R184). -/

namespace Sys2Proof.Machine

/-- `A <- Pull(); setZN(A)` (R183). -/
def pullA (s : State) : State :=
  let v := pull s
  (v.2.setA v.1).setZN v.1

/-- `s <- Pull()`, then the six flags of it; B and U stay (R184). -/
def pullP (s : State) : State :=
  let v := pull s
  v.2.setP (v.2.cpu.p.restore v.1)

/-- PHP: the pushed byte has bit 4 = 1 and bit 5 = P.U; no flag changes (R181). -/
def execPhp (s : State) : Host.Outcome State Fault Refusal := 
  .next (push (s.cpu.p.pushByte true) (s.spend 3))

/-- PHA: `Push(A)` (R182). -/
def execPha (s : State) : Host.Outcome State Fault Refusal := 
  .next (push s.cpu.a (s.spend 3))

/-- PLA (R183). -/
def execPla (s : State) : Host.Outcome State Fault Refusal := 
  .next (pullA (s.spend 4))

/-- PLP (R184). -/
def execPlp (s : State) : Host.Outcome State Fault Refusal := 
  .next (pullP (s.spend 4))

end Sys2Proof.Machine
end

