-- ==== Sys2Proof/Machine/System.lean ====
section
/-! DEFINITION. Flag, no-op, break, return-from-interrupt and illegal-opcode behaviour (46_flags_system.md R260 to R280). -/

namespace Sys2Proof.Machine

/-- A flag instruction: 2 cycles, one flag (R260). -/
def writeFlag (f : Flags → Flags) (s : State) : State := (s.spend 2).setP (f s.cpu.p)

/-- BRK: the software interrupt (R275). PC is one past the opcode, and the byte after it is padding. -/
def breakInterrupt (s : State) : State := enterInterrupt (s.cpu.pc + 1) true irqVector s

/-- The anomaly of an illegal opcode at `PC - 1`, counted and logged (R280; log 15). -/
def recordAnomaly (op : Byte) (s : State) : State :=
  let s := s.setCpu { s.cpu with anomalyCount := s.cpu.anomalyCount + 1 }
  s.setOut { s.out with anomalies := (op, s.cpu.pc - 1) :: s.out.anomalies }

/-- The policy of R280: under `nop1` a 1-cycle no-op; under `fatal` `cpu.fault` is set, 0 cycles, and no further step runs. -/
def illegalOpcode (op : Byte) (s : State) : State :=
  let s := recordAnomaly op s
  match s.cfg.illegalPolicy with
  | .nop1 => s.spend 1
  | .fatal => s.setCpu { s.cpu with fault := true }

/-- CLC: `P.C <- 0` (R261). -/
def execClc (s : State) : Host.Outcome State Fault Refusal := 
  .next (writeFlag (fun p => { p with c := false }) s)

/-- CLD: `P.D <- 0` (R262). -/
def execCld (s : State) : Host.Outcome State Fault Refusal := 
  .next (writeFlag (fun p => { p with d := false }) s)

/-- CLI: `P.I <- 0` (R263). -/
def execCli (s : State) : Host.Outcome State Fault Refusal := 
  .next (writeFlag (fun p => { p with i := false }) s)

/-- CLV: `P.V <- 0` (R264). -/
def execClv (s : State) : Host.Outcome State Fault Refusal := 
  .next (writeFlag (fun p => { p with v := false }) s)

/-- SEC: `P.C <- 1` (R265). -/
def execSec (s : State) : Host.Outcome State Fault Refusal := 
  .next (writeFlag (fun p => { p with c := true }) s)

/-- SED: `P.D <- 1` (R266). -/
def execSed (s : State) : Host.Outcome State Fault Refusal := 
  .next (writeFlag (fun p => { p with d := true }) s)

/-- SEI: `P.I <- 1` (R267). -/
def execSei (s : State) : Host.Outcome State Fault Refusal := 
  .next (writeFlag (fun p => { p with i := true }) s)

/-- NOP (R268). -/
def execNop (s : State) : Host.Outcome State Fault Refusal := 
  .next (s.spend 2)

/-- BRK (R275). -/
def execBrk (s : State) : Host.Outcome State Fault Refusal := 
  .next (breakInterrupt (s.spend 7))

/-- RTI (R276). -/
def execRti (s : State) : Host.Outcome State Fault Refusal := 
  .next (returnFromInterrupt (s.spend 6))

/-- An illegal opcode (R280). -/
def execIllegal (op : Byte) (s : State) : Host.Outcome State Fault Refusal := 
  .next (illegalOpcode op s)

end Sys2Proof.Machine
end

