-- ==== Sys2Proof/Machine/PpuTiming.lean ====
section
/-! DEFINITION. The PPU's dot step: timing, scroll counters, sprite evaluation and pixel composition
(51_ppu_timing_rendering.md R350 to R388). A dot changes the PPU alone. -/

namespace Sys2Proof.Machine

/-! ### Scroll counters (R354 to R360) -/

/-- `IncCoarseX()` (R355). -/
def incCoarseX (v : Vaddr) : Vaddr :=
  if v.extractLsb' 0 5 = 31#5 then putBits (putBits v 0 (0 : BitVec 5)) 10 (~~~v.extractLsb' 10 1)
  else putBits v 0 (v.extractLsb' 0 5 + 1)

/-- `IncY()` (R356). -/
def incY (v : Vaddr) : Vaddr :=
  if (v.extractLsb' 12 3).toNat < 7 then putBits v 12 (v.extractLsb' 12 3 + 1)
  else
    let v := putBits v 12 (0 : BitVec 3)
    let cy := v.extractLsb' 5 5
    if cy = 29#5 then putBits (putBits v 11 (~~~v.extractLsb' 11 1)) 5 (0 : BitVec 5)
    else if cy = 31#5 then putBits v 5 (0 : BitVec 5)
    else putBits v 5 (cy + 1)

/-- `CopyHorizontal()` (R357). -/
def copyHorizontal (t v : Vaddr) : Vaddr := putBits (putBits v 10 (t.extractLsb' 10 1)) 0 (t.extractLsb' 0 5)

/-- `CopyVertical()` (R358). -/
def copyVertical (t v : Vaddr) : Vaddr := putBits (putBits v 11 (t.extractLsb' 11 4)) 5 (t.extractLsb' 5 5)

/-- Whether `ScrollCounters` bumps coarse X at a dot (R354). -/
def coarseXDot (d : Nat) : Bool := (1 ≤ d && d ≤ 256 && d % 8 == 0) || d == 328 || d == 336

/-- `ScrollCounters(s, d)` on `v` (R354). -/
def scrollCounters (s d : Nat) (t v : Vaddr) : Vaddr :=
  let v := if coarseXDot d then incCoarseX v else v
  let v := if d = 256 then incY v else v
  let v := if d = 257 then copyHorizontal t v else v
  if s = 261 ∧ 280 ≤ d ∧ d ≤ 304 then copyVertical t v else v

/-- `LatchLineScroll()` (R360). -/
def latchLineScroll (p : Ppu) : Ppu := { p with lineScroll := p.v, lineFineX := p.x }

/-! ### Status and frame events (R352, R353, R361) -/

/-- `VBlankStart()` (R352). -/
def vblankStart (p : Ppu) : Ppu := { p with vblank := true, nmiRequest := p.nmiRequest || p.ctrl.getLsbD 7 }

/-- `PreRenderClear()` (R353). -/
def preRenderClear (p : Ppu) : Ppu := { p with vblank := false, sprite0Hit := false, spriteOverflow := false }

/-- `FrameWrap()` (R361). -/
def frameWrap (p : Ppu) : Ppu := { p with frameReady := true, fbOut := p.fb }

/-- The counters move to the next position, with the frame wrap at (261, 340) -> (0, 0) (R351). -/
def advanceDot (p : Ppu) : Ppu :=
  if p.dot + 1 = 341 then
    if p.scanline + 1 = 262 then frameWrap { p with dot := 0, scanline := 0 }
    else { p with dot := 0, scanline := p.scanline + 1 }
  else { p with dot := p.dot + 1 }

/-! ### Sprites (R370 to R374) -/

/-- The 2-bit pixel of a pattern row at a column, `{hi[7 - col], lo[7 - col]}` (R373). -/
def patternPixel (lo hi : Byte) (col : Nat) : BitVec 2 := BitVec.ofBool (hi.getLsbD (7 - col)) ++ BitVec.ofBool (lo.getLsbD (7 - col))

/-- The height of a sprite, by Control bit 5 (R371). -/
def Ppu.spriteHeight (p : Ppu) : Nat := if p.ctrl.getLsbD 5 then 16 else 8

/-- `InRange(y)` on line s (R371). -/
def spriteInRange (s h : Nat) (y : Byte) : Bool := y.toNat ≤ s && s - y.toNat < h

/-- `LatchSprite(n, rr, h)` (R372). -/
def latchSprite (e : PpuEnv) (p : Ppu) (n rr h : Nat) : SpriteLatch :=
  let tile := (p.oam.read (4 * n + 1)).toNat
  let attr := p.oam.read (4 * n + 2)
  let rr := if attr.getLsbD 7 then h - 1 - rr else rr
  let addr :=
    if h = 8 then (if p.ctrl.getLsbD 3 then 0x1000 else 0x0000) + tile * 16 + rr
    else tile % 2 * 0x1000 + tile / 2 * 2 * 16 + (if 8 ≤ rr then 16 else 0) + rr % 8
  let lo := vramByte e p addr
  let hi := vramByte e p (addr + 8)
  let flip := attr.getLsbD 6
  { n := n, x := p.oam.read (4 * n + 3), attr := attr, lo := if flip then bitReverse8 lo else lo, hi := if flip then bitReverse8 hi else hi }

/-- The first loop of `EvaluateSprites` (R371), with `fuel` sprites left to look at: the latches found so far, at most 8, and
the index at which the loop ends. -/
def collectSprites (e : PpuEnv) (p : Ppu) (s h : Nat) : Nat → Nat → List SpriteLatch → List SpriteLatch × Nat
  | 0, n, found => (found, n)
  | fuel + 1, n, found =>
    if found.length = 8 then (found, n)
    else if spriteInRange s h (p.oam.read (4 * n)) then
      collectSprites e p s h fuel (n + 1) (found ++ [latchSprite e p n (s - (p.oam.read (4 * n)).toNat) h])
    else collectSprites e p s h fuel (n + 1) found

/-- The overflow search of `OVERFLOW_MODE = hardware` (R371): the byte index moves with the sprite index. -/
def overflowHardware (oam : Memory) (s h : Nat) : Nat → Nat → Nat → Bool
  | 0, _, _ => false
  | fuel + 1, n, m => spriteInRange s h (oam.read (4 * n + m)) || overflowHardware oam s h fuel (n + 1) ((m + 1) % 4)

/-- The overflow search of `OVERFLOW_MODE = ideal` (R371): any later sprite in range. -/
def overflowIdeal (oam : Memory) (s h : Nat) : Nat → Nat → Bool
  | 0, _ => false
  | fuel + 1, n => spriteInRange s h (oam.read (4 * n)) || overflowIdeal oam s h fuel (n + 1)

/-- The overflow test with the first `n` sprites already looked at (R371). -/
def overflowFound (e : PpuEnv) (p : Ppu) (s h n : Nat) : Bool :=
  match e.cfg.overflowMode with
  | .hardware => overflowHardware p.oam s h (64 - n) n 0
  | .ideal => overflowIdeal p.oam s h (64 - n) n

/-- `EvaluateSprites(s)` (R371). -/
def evaluateSprites (e : PpuEnv) (s : Nat) (p : Ppu) : Ppu :=
  if s > 239 ∨ ¬p.renderingEnabled then { p with lineSprites := [] }
  else
    let h := p.spriteHeight
    let found := collectSprites e p s h 64 0 []
    let overflow := found.1.length == 8 && overflowFound e p s h found.2
    { p with lineSprites := found.1, spriteOverflow := p.spriteOverflow || overflow }

/-- The pixel of one latch at x, 0 where the latch has none (R374). -/
def SpriteLatch.pixel (l : SpriteLatch) (x : Nat) : BitVec 2 :=
  if l.x.toNat ≤ x ∧ x - l.x.toNat ≤ 7 then patternPixel l.lo l.hi (x - l.x.toNat) else 0

/-- What `SpritePixel` answers: the pixel, its palette and its priority bit (R374). -/
structure SpritePixel where
  pixel   : BitVec 2
  palette : BitVec 2
  behind  : Bool
  deriving DecidableEq, Repr

/-- `SpritePixel(x)`: the first opaque latch of the list (R374). -/
def spritePixel : List SpriteLatch → Nat → SpritePixel
  | [], _ => { pixel := 0, palette := 0, behind := false }
  | l :: rest, x =>
    if l.pixel x ≠ 0 then { pixel := l.pixel x, palette := l.attr.extractLsb' 0 2, behind := l.attr.getLsbD 5 }
    else spritePixel rest x

/-- `Sprite0Pixel(x)` (R374). -/
def sprite0Pixel : List SpriteLatch → Nat → BitVec 2
  | [], _ => 0
  | l :: rest, x => if l.n = 0 then l.pixel x else sprite0Pixel rest x

/-! ### Background and composition (R380 to R387) -/

/-- `BgPixel(x)`: the pixel and its palette (R381). The terms of an address occupy different bits, so the rule's `|` is `+`. -/
def bgPixel (e : PpuEnv) (p : Ppu) (x : Nat) : BitVec 2 × BitVec 2 :=
  let scroll := p.lineScroll
  let fx := p.lineFineX.toNat + x
  let column := (scroll.extractLsb' 0 5).toNat + fx / 8
  let ntx := ((scroll.extractLsb' 10 1).toNat + column / 32) % 2
  let cx := column % 32
  let cy := (scroll.extractLsb' 5 5).toNat
  let nty := (scroll.extractLsb' 11 1).toNat
  let fy := (scroll.extractLsb' 12 3).toNat
  let nt := 0x2000 + nty * 0x800 + ntx * 0x400
  let tile := (vramByte e p (nt + cy * 32 + cx)).toNat
  let attrs := vramByte e p (nt + 0x3C0 + cy / 4 * 8 + cx / 4)
  let quadrant := cy / 2 % 2 * 4 + cx / 2 % 2 * 2
  let base := if p.ctrl.getLsbD 4 then 0x1000 else 0x0000
  let lo := vramByte e p (base + tile * 16 + fy)
  let hi := vramByte e p (base + tile * 16 + fy + 8)
  (patternPixel lo hi (fx % 8), attrs.extractLsb' quadrant 2)

/-- `PaletteAddr(bp, bpal, sp, spal, behind)` (R384). -/
def paletteAddr (bp bpal : BitVec 2) (sp : SpritePixel) : PpuAddr :=
  let background := BitVec.ofNat 14 (0x3F00 + 4 * bpal.toNat + bp.toNat)
  let sprite := BitVec.ofNat 14 (0x3F10 + 4 * sp.palette.toNat + sp.pixel.toNat)
  if bp = 0 ∧ sp.pixel = 0 then 0x3F00#14
  else if bp = 0 then sprite
  else if sp.pixel = 0 then background
  else if sp.behind then background
  else sprite

/-- `Cell(c)` (R385): emphasis bits 8:6, colour index 5:0. -/
def Ppu.cell (p : Ppu) (c : BitVec 6) : BitVec 9 :=
  p.mask.extractLsb' 5 3 ++ (c &&& (if p.mask.getLsbD 0 then 0x30#6 else 0x3F#6))

/-- `fb[s][x] <- c` (R387). -/
def Ppu.plot (p : Ppu) (s x : Nat) (c : BitVec 9) : Ppu := { p with fb := p.fb.write (256 * s + x) c }

/-- The background pixel after enabling and left-column clipping (R380, R382). -/
def visibleBg (e : PpuEnv) (p : Ppu) (x : Nat) : BitVec 2 :=
  if ¬p.mask.getLsbD 3 ∨ (x < 8 ∧ ¬p.mask.getLsbD 1) then 0 else (bgPixel e p x).1

/-- Whether sprite pixels show at x (R380, R382). -/
def spritesShow (p : Ppu) (x : Nat) : Bool := p.mask.getLsbD 4 && !(decide (x < 8) && !p.mask.getLsbD 2)

/-- The sprite pixel after enabling and left-column clipping (R380, R382). -/
def visibleSprite (p : Ppu) (x : Nat) : SpritePixel :=
  let sp := spritePixel p.lineSprites x
  if spritesShow p x then sp else { sp with pixel := 0 }

/-- The sprite-0 pixel after enabling and left-column clipping (R380, R382). -/
def visibleSprite0 (p : Ppu) (x : Nat) : BitVec 2 := if spritesShow p x then sprite0Pixel p.lineSprites x else 0

/-- Whether sprite 0 hits at x (R383). -/
def sprite0Hits (e : PpuEnv) (p : Ppu) (x : Nat) : Bool := visibleSprite0 p x != 0 && visibleBg e p x != 0 && x != 255

/-- `RenderPixel(s, x)` (R380). -/
def renderPixel (e : PpuEnv) (s x : Nat) (p : Ppu) : Ppu :=
  if ¬p.renderingEnabled then p.plot s x (p.cell (p.colour 0x3F00))
  else
    let a := paletteAddr (visibleBg e p x) (bgPixel e p x).2 (visibleSprite p x)
    { p.plot s x (p.cell (p.colour a)) with sprite0Hit := p.sprite0Hit || sprite0Hits e p x }

/-! ### The dot (R351) -/

/-- The pixel of a visible position (R351, R380). -/
def dotPixel (e : PpuEnv) (p : Ppu) : Ppu :=
  if p.scanline ≤ 239 ∧ 1 ≤ p.dot ∧ p.dot ≤ 256 then renderPixel e p.scanline (p.dot - 1) p else p

/-- The start of VBlank, at (241, 1) (R351, R352). -/
def dotVblank (p : Ppu) : Ppu := if p.scanline = 241 ∧ p.dot = 1 then vblankStart p else p

/-- The pre-render clear, at (261, `PRE_RENDER_CLEAR_DOT`) (R351, R353). -/
def dotClear (e : PpuEnv) (p : Ppu) : Ppu :=
  if p.scanline = 261 ∧ p.dot = e.cfg.preRenderClearDot then preRenderClear p else p

/-- The scroll counters and the OAM cursor of a rendering line (R351, R354, R359). -/
def dotScroll (p : Ppu) : Ppu :=
  if p.renderingEnabled ∧ (p.scanline ≤ 239 ∨ p.scanline = 261) then
    { p with v := scrollCounters p.scanline p.dot p.t p.v, oamAddr := if p.dot = 257 then 0 else p.oamAddr }
  else p

/-- Sprite evaluation, at dot 257 (R351, R371). -/
def dotSprites (e : PpuEnv) (p : Ppu) : Ppu := if p.dot = 257 then evaluateSprites e p.scanline p else p

/-- The line scroll snapshot, at dot 320 (R351, R360). -/
def dotLatch (p : Ppu) : Ppu := if p.dot = 320 ∧ (p.scanline ≤ 238 ∨ p.scanline = 261) then latchLineScroll p else p

/-- `PpuStep()` (R351): the counters first, then the actions of the new position, in the rule's order. -/
def ppuStep (e : PpuEnv) (p : Ppu) : Ppu :=
  dotLatch (dotSprites e (dotScroll (dotClear e (dotVblank (dotPixel e (advanceDot p))))))

/-- `n` dots. -/
def ppuRun (e : PpuEnv) : Nat → Ppu → Ppu
  | 0, p => p
  | n + 1, p => ppuRun e n (ppuStep e p)

end Sys2Proof.Machine
end

