-- ==== Sys2Proof/Machine/Reset.lean ====
section
/-! DEFINITION. Reset and launch (70_reset_and_hazards.md R490 to R493; 53_synchronizer.md R437). -/

namespace Sys2Proof.Machine

/-- `ResetAction()` (R490). The vector is read through the bus. The bus latch is as it was before: R493 and 10_state.md R58 say
that a reset keeps it, while 20_memory.md R72 has every bus read set it; this is the model's choice (log 23). -/
def resetAction (s : State) : State :=
  let r := read16 resetVector s
  let s := r.2.setLatch s.io.cpuBusLatch
  s.setCpu { s.cpu with
    pc := r.1
    sp := 0xFD
    p := { s.cpu.p with i := true, u := true }
    cycles := 0
    resetPending := false
    nmiPending := false
    irqPending := false
    dmaStall := 0 }

/-- `PpuReset()` (R492). -/
def ppuReset (p : Ppu) : Ppu :=
  { p with
    ctrl := 0
    mask := 0
    t := 0
    x := 0
    w := false
    readBuffer := 0
    scanline := 0
    dot := 0
    frameReady := false
    nmiRequest := false
    lineScroll := 0
    lineFineX := 0
    lineSprites := [] }

/-- `HostReset()` (53 R437): the host raises it between iterations; the CPU part runs in the next step. -/
def hostReset (s : State) : State :=
  let s := s.setCpu { s.cpu with resetPending := true }
  let s := s.setPpu (ppuReset s.ppu)
  s.setIo { s.io with strobe := false }

/-- The launch draws of R491: what the spec leaves unspecified at power-on. -/
structure LaunchDraws where
  a              : Byte
  x              : Byte
  y              : Byte
  c              : Bool
  z              : Bool
  d              : Bool
  v              : Bool
  n              : Bool
  ram            : Memory
  chrRam         : Memory
  oam            : Memory
  ciram          : Memory
  palette        : Store 6
  vblank         : Bool
  spriteOverflow : Bool
  deriving DecidableEq, Repr

/-- The draws that `State.reset` takes: 0 (log 2). -/
def LaunchDraws.zero : LaunchDraws where
  a := 0
  x := 0
  y := 0
  c := false
  z := false
  d := false
  v := false
  n := false
  ram := []
  chrRam := []
  oam := []
  ciram := []
  palette := []
  vblank := false
  spriteOverflow := false

/-- The power-on values of 10_state.md with the launch draws (R491, before its two resets). SP, PC, P.I and the fields the two
resets write have their reset values here already. -/
def powerOn (cart : Cartridge) (cfg : Params) (dr : LaunchDraws) : State :=
  { State.reset with
    cpu := { Cpu.reset with
      a := dr.a
      x := dr.x
      y := dr.y
      p := { Flags.reset with c := dr.c, z := dr.z, d := dr.d, v := dr.v, n := dr.n } }
    ppu := { Ppu.reset with
      oam := dr.oam
      ciram := dr.ciram
      palette := dr.palette
      vblank := dr.vblank
      spriteOverflow := dr.spriteOverflow }
    ram := dr.ram
    chrRam := dr.chrRam
    cfg := cfg
    cart := cart }

/-- `Launch(PRG, CHR, MIRRORING, parameters, draws)` (R491). -/
def launch (cart : Cartridge) (cfg : Params) (dr : LaunchDraws) : State :=
  let s := resetAction (powerOn cart cfg dr)
  let s := s.setPpu (ppuReset s.ppu)
  s.setIo { s.io with strobe := false }

end Sys2Proof.Machine
end

