-- ==== Sys2Proof/Machine/Iterate.lean ====
section
/-! DEFINITION. The CPU step (60_exceptions.md R464) and the synchronizer iteration around it (53_synchronizer.md R430). -/

namespace Sys2Proof.Machine

/-- `MemRead(PC, 1); PC <- (PC + 1) mod 65536` (30_encoding.md R114). -/
def fetchByte (s : State) : Byte × State :=
  let r := memRead s.cpu.pc s
  (r.1, r.2.setPc (r.2.cpu.pc + 1))

/-- The fetch of R114: the opcode, then the operand bytes its mode has, in order; decoded (R115). -/
def fetchInstr (s : State) : Instr × State :=
  let op := fetchByte s
  match opLength op.1 with
  | 1 => (decodeBytes op.1 0 0, op.2)
  | 2 =>
    let b1 := fetchByte op.2
    (decodeBytes op.1 b1.1 0, b1.2)
  | _ =>
    let b1 := fetchByte op.2
    let b2 := fetchByte b1.2
    (decodeBytes op.1 b1.1 b2.1, b2.2)

/-- The end of an instruction's count: `cpu.dma_stall` is added and cleared (R118). -/
def settleStall (s : State) : State :=
  s.setCpu { s.cpu with cycles := s.cpu.cycles + s.cpu.dmaStall, dmaStall := 0 }

/-- NMI service: 7 cycles, the pending flag cleared (60 R461). -/
def serviceNmi (s : State) : State :=
  let s := serviceInterrupt nmiVector s
  (s.setCpu { s.cpu with nmiPending := false }).spend 7

/-- IRQ service: 7 cycles, the pending flag cleared (60 R462). -/
def serviceIrq (s : State) : State :=
  let s := serviceInterrupt irqVector s
  (s.setCpu { s.cpu with irqPending := false }).spend 7

/-- What a CPU step does (60 R464, R465): Reset, then NMI, then IRQ, then an instruction. -/
inductive StepKind where
  | reset
  | nmi
  | irq
  | instruction
  deriving DecidableEq, Repr

/-- The priority of R465. -/
def stepKind (c : Cpu) : StepKind :=
  if c.resetPending then .reset
  else if c.nmiPending then .nmi
  else if c.irqPending && !c.p.i then .irq
  else .instruction

/-- `CpuStep()` (60 R464), with the cycle count it returns: 0 for a reset, which zeroes the counter; else what the step has
added to `cpu.cycles` (log 13). -/
def cpuStep (s : State) : Host.Outcome (State × Nat) Fault Refusal :=
  match stepKind s.cpu with
  | .reset => .next (resetAction s, 0)
  | .nmi => .next (serviceNmi s, 7)
  | .irq => .next (serviceIrq s, 7)
  | .instruction =>
    let f := fetchInstr s
    match exec f.1 f.2 with
    | .next t => .next (settleStall t, (settleStall t).cpu.cycles - s.cpu.cycles)
    | .fault r => .fault r
    | .refused r => .refused r

/-- The dots of an iteration: 3 for each cycle (53 R430, R431). -/
def runDots (c : Nat) (s : State) : State := s.setPpu (ppuRun s.env (3 * c) s.ppu)

/-- The hand-off of a completed frame and the input poll (53 R430, R434; 52 R408). -/
def handOff (s : State) : State :=
  if s.ppu.frameReady then
    let input := Config.pollInput s.draws
    { s.nextDraw with
      ppu := { s.ppu with frameReady := false }
      io := { s.io with buttons1 := input.1, buttons2 := input.2 }
      frames := s.frames + 1
      out := { s.out with presented := s.ppu.fbOut :: s.out.presented } }
  else s

/-- NMI delivery (53 R430, R432). -/
def deliverNmi (s : State) : State :=
  if s.ppu.nmiRequest then
    { s with cpu := { s.cpu with nmiPending := true }, ppu := { s.ppu with nmiRequest := false } }
  else s

/-- The IRQ sample (53 R430, R433). -/
def sampleIrq (s : State) : State :=
  s.nextDraw.setCpu { s.cpu with irqPending := Config.irqLine s.draws }

/-- What follows the CPU step in an iteration, in the order of 53 R430. -/
def afterCpu (c : Nat) (s : State) : State := sampleIrq (deliverNmi (handOff (runDots c s)))

/-- `Iterate()` (53 R430): a faulted CPU has no further iteration (53 R436). -/
def iterate (s : State) : Host.Outcome State Fault Refusal :=
  if s.cpu.fault then .fault .cpuFaulted
  else
    match cpuStep s with
    | .next (t, c) => .next (afterCpu c t)
    | .fault r => .fault r
    | .refused r => .refused r

/-- Put a byte where a fetch at `a` finds it: internal RAM below 0x2000, PRG from 0x8000 up. -/
def placeByte (a : Addr) (b : Byte) (s : State) : State :=
  if a.toNat ≤ 0x1FFF then s.setRam (s.ram.write (a.toNat % 0x800) b)
  else { s with cart := { s.cart with prg := s.cart.prg.write ((a.toNat - 0x8000) % s.cart.prgSize.bytes) b } }

/-- Whether a byte can be put at an address: it is RAM or PRG. -/
def placeable (a : Addr) : Bool := a.toNat ≤ 0x1FFF || 0x8000 ≤ a.toNat

/-- Nothing that would keep the next step from running an instruction: no fault, no pending event. -/
def readyToFetch (s : State) : State :=
  s.setCpu { s.cpu with fault := false, resetPending := false, nmiPending := false, irqPending := false }

/-- Place an instruction of up to three bytes at the PC; where the PC does not address three bytes of RAM or PRG, at 0x0000,
with the PC there (log 20). -/
def placeInstr (w : Nat) (s : State) : State :=
  let pc := s.cpu.pc
  let s := if placeable pc && placeable (pc + 1) && placeable (pc + 2) then s else s.setPc 0
  let pc := s.cpu.pc
  placeByte (pc + 2) (BitVec.ofNat 8 (w / 65536)) (placeByte (pc + 1) (BitVec.ofNat 8 (w / 256)) (placeByte pc (BitVec.ofNat 8 w) s))

end Sys2Proof.Machine
end

