-- ==== Sys2Proof/Machine/Step.lean ====
section
/-! DEFINITION. One step of the machine: one synchronizer iteration (53_synchronizer.md R430; log 17). -/

namespace Sys2Proof.Machine

/-- One iteration: a CPU step, its PPU dots, the hand-off, the NMI delivery, the IRQ sample. -/
def step (s : State) : Host.Outcome State Fault Refusal := iterate s

/-- The state with an instruction (the bits of `w` below `nbits`, the rest 0) where the next step fetches, and nothing pending
that would be served before it (log 20). -/
def State.withFetchWord (s : State) (nbits w : Nat) : State := placeInstr (w % 2 ^ nbits) (readyToFetch s)

end Sys2Proof.Machine
end

