-- ==== Sys2Proof/Safety.lean ====
section
/-! DEFINITION. What counts as a well-kept state and a safe run, in the terms the statements use: the invariants of
10_state.md R62, the ranges 10_state.md gives each field, and the canonical form of every memory. -/

namespace Sys2Proof.Machine

/-- R62: `P.U = 1`, and no stall is left between steps. -/
structure Cpu.Kept (c : Cpu) : Prop where
  unusedSet : c.p.u = true
  noStall   : c.dmaStall = 0

/-- R62 and the sizes of R48 to R54. -/
structure Ppu.Kept (p : Ppu) : Prop where
  scanline  : p.scanline ≤ 261
  dot       : p.dot ≤ 340
  sprites   : p.lineSprites.length ≤ 8
  spriteIds : ∀ l ∈ p.lineSprites, l.n ≤ 63
  oam       : p.oam.fits 256
  ciram     : p.ciram.fits 2048
  palette   : p.palette.fits 32
  fb        : p.fb.fits 61440
  fbOut     : p.fbOut.fits 61440

/-- The sizes of 00_scope.md R8: PRG of its length, CHR ROM of 8192 bytes. -/
structure Cartridge.Kept (c : Cartridge) : Prop where
  prg : c.prg.fits c.prgSize.bytes
  chr : ∀ bytes, c.chr = .rom bytes → Store.fits bytes 8192

/-- The invariant of the machine between steps. -/
structure Inv (s : State) : Prop where
  cpu    : s.cpu.Kept
  ppu    : s.ppu.Kept
  ram    : s.ram.fits 2048
  chrRam : s.chrRam.fits 8192
  cart   : s.cart.Kept
  cfg    : s.cfg.wf

/-- The model's read of one byte of plain memory: internal RAM, or PRG from 0x8000 up; none at an address whose read belongs to a
device or to open bus (20_memory.md R71, R79, R84). It changes nothing. -/
def plainByte (s : State) (a : Addr) : Option Byte :=
  match route a with
  | .ram cell => some (s.ram.read cell)
  | .cart a => if 0x8000 ≤ a.toNat then some (s.cart.prgByte a) else none
  | _ => none

/-- The state after the fetch of `n` bytes of plain memory, `last` the last of them (30_encoding.md R114): PC is past them and
the bus latch holds the last. -/
def fetched (n : Nat) (last : Byte) (s : State) : State :=
  { s with cpu := { s.cpu with pc := s.cpu.pc + BitVec.ofNat 16 n }, io := { s.io with cpuBusLatch := last } }

/-- Every memory of `t` reads as that of `s`, and the cartridge is the same. -/
structure SameMemories (s t : State) : Prop where
  ram     : ∀ k, t.ram.read k = s.ram.read k
  chrRam  : ∀ k, t.chrRam.read k = s.chrRam.read k
  oam     : ∀ k, t.ppu.oam.read k = s.ppu.oam.read k
  ciram   : ∀ k, t.ppu.ciram.read k = s.ppu.ciram.read k
  palette : ∀ k, t.ppu.palette.read k = s.ppu.palette.read k
  cart    : t.cart = s.cart

/-- The pending events, the anomaly count and the fault bit of `t` are those of `s`, and so are the parameters, the frame count
and everything handed out. -/
structure SameControl (s t : State) : Prop where
  nmi       : t.cpu.nmiPending = s.cpu.nmiPending
  irq       : t.cpu.irqPending = s.cpu.irqPending
  reset     : t.cpu.resetPending = s.cpu.resetPending
  anomalies : t.cpu.anomalyCount = s.cpu.anomalyCount
  fault     : t.cpu.fault = s.cpu.fault
  cfg       : t.cfg = s.cfg
  frames    : t.frames = s.frames
  presented : t.out.presented = s.out.presented
  logged    : t.out.anomalies = s.out.anomalies

/-- Everything outside the CPU and the bus latch is the same: what an instruction leaves that touches no device. -/
def SameOutsideCpu (s t : State) : Prop :=
  t = { s with cpu := t.cpu, io := { s.io with cpuBusLatch := t.io.cpuBusLatch } }

/-- A state from which a step runs: the CPU has not faulted (R35). -/
def Running (s : State) : Prop := s.cpu.fault = false

/-- A state at which the next step runs an instruction: not faulted, and nothing pending that is served first (60_exceptions.md
R464). -/
def RunsInstruction (s : State) : Prop := s.cpu.fault = false ∧ stepKind s.cpu = .instruction

end Sys2Proof.Machine
end

