-- ==== Sys2Proof/Certificates/Slice0/Obligations.lean ====
section
/-! DEFINITION. The statements for the provers. Each formalises what the spec says an instruction or the machine does; a statement
about a free value holds for every value of it, and none rests on the value of one. -/

open Sys2Proof Sys2Proof.Machine

/-- For every well-formed instruction i, with every operand at every value, and any bytes after it, decode (encode i ++ rest) is i and rest. -/
def Obligations.DecodeEncodeIsIdentity : Prop :=
  ∀ (i : Instr) (rest : List Byte), i.wellFormed = true → decode (encode i ++ rest) = .ok (i, rest)

/-- Whenever decode reads an instruction i from a list of bytes and leaves rest, i is well-formed and its encoding followed by rest is that list: the decoder drops no bit and answers no term that is no instruction. -/
def Obligations.EncodeDecodeGivesTheBytes : Prop :=
  ∀ (bytes rest : List Byte) (i : Instr), decode bytes = .ok (i, rest) → i.wellFormed = true ∧ encode i ++ rest = bytes

/-- Every opcode byte with two bytes after it decodes; the entry is ILLEGAL exactly for the values listed in R119, of which there are 105, and then it is the illegal opcode of that byte and has length 1. -/
def Obligations.EveryOpcodeByteDecodes : Prop :=
  illegalOpcodes.length = 105 ∧
  ∀ op b1 b2 : Byte,
    (∃ i rest, decode [op, b1, b2] = .ok (i, rest)) ∧
    (illegalOpcodes.contains op.toNat = true → decode [op, b1, b2] = .ok (.illegal op, [b1, b2])) ∧
    (illegalOpcodes.contains op.toNat = false → ∀ x, decodeBytes op b1 b2 ≠ .illegal x)

/-- The byte sequences of the assembler-syntax table (INX, ASL A, LDA immediate, zp and zpx, LDX zpy, STA abs, LDA abx and aby, JMP ind, LDA izx and izy, BNE) decode to the instructions it names. -/
def Obligations.SampleWordsDecode : Prop :=
  decode [0xE8] = .ok (.inx, []) ∧
  decode [0x0A] = .ok (.asl .acc, []) ∧
  decode [0xA9, 0x42] = .ok (.lda (.imm 0x42), []) ∧
  decode [0xA5, 0x10] = .ok (.lda (.mem (.zp 0x10)), []) ∧
  decode [0xB5, 0x10] = .ok (.lda (.mem (.zpx 0x10)), []) ∧
  decode [0xB6, 0x10] = .ok (.ldx (.mem (.zpy 0x10)), []) ∧
  decode [0x8D, 0x07, 0x20] = .ok (.sta (.abs 0x2007), []) ∧
  decode [0xBD, 0x00, 0x03] = .ok (.lda (.mem (.abx 0x0300)), []) ∧
  decode [0xB9, 0x00, 0x03] = .ok (.lda (.mem (.aby 0x0300)), []) ∧
  decode [0x6C, 0xFC, 0xFF] = .ok (.jmpInd 0xFFFC, []) ∧
  decode [0xA1, 0x20] = .ok (.lda (.mem (.izx 0x20)), []) ∧
  decode [0xB1, 0x20] = .ok (.lda (.mem (.izy 0x20)), []) ∧
  decode [0xD0, 0xFE] = .ok (.bne 0xFE, [])

/-- In a state that is not faulted and has no event to serve, when the bytes at the PC (internal RAM or PRG, wrapping modulo 65536) decode to an instruction i, step is exec of i in the state whose PC is past the bytes and whose bus latch holds the last of them; then the DMA stall is added to the cycle counter and cleared, and the rest of the iteration follows with the cycles the step has added. -/
def Obligations.StepRunsTheDecodedInstruction : Prop :=
  ∀ (s : State) (bytes : List Byte) (i : Instr) (last : Byte),
    RunsInstruction s → decode bytes = .ok (i, []) → bytes.getLast? = some last →
    (∀ k b, bytes[k]? = some b → plainByte s (s.cpu.pc + BitVec.ofNat 16 k) = some b) →
    step s =
      match exec i (fetched bytes.length last s) with
      | .next t =>
        let u := { t with cpu := { t.cpu with cycles := t.cpu.cycles + t.cpu.dmaStall, dmaStall := 0 } }
        .next (afterCpu (u.cpu.cycles - s.cpu.cycles) u)
      | .fault r => .fault r
      | .refused r => .refused r

/-- From every state whose fault bit is clear, step answers a next state: no instruction, no byte of memory and no event makes it fault or refuse. -/
def Obligations.StepAnswersUnlessFaulted : Prop :=
  ∀ s : State, s.cpu.fault = false → ∃ t, step s = .next t

/-- From a state whose fault bit is set, step answers the fault cpuFaulted. -/
def Obligations.FaultedMachineStops : Prop :=
  ∀ s : State, s.cpu.fault = true → step s = .fault .cpuFaulted

/-- From every state that has the invariant, a next state has it: scanline and dot in range, P.U = 1, no DMA stall left over, at most 8 sprite latches with OAM indices below 64, every memory in its canonical form and within its size, the cartridge and the parameters well-formed. -/
def Obligations.StepKeepsInvariant : Prop :=
  ∀ s t : State, Inv s → step s = .next t → Inv t

/-- State.reset has the invariant, and it is the launch state for the blank cartridge, the default parameters and launch draws of 0 (the model's choices of log 1 and log 2). -/
def Obligations.ResetHasInvariant : Prop :=
  Inv State.reset ∧ State.reset = launch Cartridge.blank Params.default LaunchDraws.zero

/-- For every well-formed cartridge, parameters and launch draws, the launch state has the invariant, PC is the word at 0xFFFC of the cartridge, SP is 0xFD, I and U are set and B is clear, the counters, pending flags, PPU registers and position, and the ports with the bus latch are 0, and every draw stands where the launch rule puts it (that the bus latch is 0 and not the byte the vector read found is the model's choice, log 23). -/
def Obligations.LaunchHasInvariantAndLaunchValues : Prop :=
  ∀ (cart : Cartridge) (cfg : Params) (dr : LaunchDraws),
    cart.Kept → cfg.wf → dr.ram.fits 2048 → dr.chrRam.fits 8192 → dr.oam.fits 256 → dr.ciram.fits 2048 → dr.palette.fits 32 →
    let s := launch cart cfg dr
    Inv s ∧
    s.cpu =
      { a := dr.a, x := dr.x, y := dr.y, sp := 0xFD, pc := addrOf (cart.prgByte 0xFFFD) (cart.prgByte 0xFFFC)
        p := { c := dr.c, z := dr.z, i := true, d := dr.d, b := false, u := true, v := dr.v, n := dr.n }
        cycles := 0, nmiPending := false, irqPending := false, resetPending := false
        anomalyCount := 0, fault := false, dmaStall := 0 } ∧
    s.ppu =
      { ctrl := 0, mask := 0, vblank := dr.vblank, sprite0Hit := false, spriteOverflow := dr.spriteOverflow, oamAddr := 0
        v := 0, t := 0, x := 0, w := false, readBuffer := 0, ioLatch := 0, oam := dr.oam, ciram := dr.ciram
        palette := dr.palette, scanline := 0, dot := 0, frameReady := false, nmiRequest := false, lineScroll := 0
        lineFineX := 0, lineSprites := [], fb := [], fbOut := [] } ∧
    s.ram = dr.ram ∧ s.chrRam = dr.chrRam ∧ s.cart = cart ∧ s.cfg = cfg ∧ s.frames = 0 ∧
    s.io = { strobe := false, shift1 := 0, shift2 := 0, buttons1 := 0, buttons2 := 0, cpuBusLatch := 0 }

/-- ServiceInterrupt pushes PC high, PC low and {N, V, U, 0, D, I, Z, C} at 0x100 + SP and below (SP wrapping in page 1), leaves SP 3 lower, sets I and no other flag, and loads PC from the vector, low byte first; every other cell of RAM, every other register, the PPU and the ports stay. -/
def Obligations.InterruptServiceBuildsTheFrame : Prop :=
  ∀ (vector : Addr) (s : State), vector = 0xFFFA ∨ vector = 0xFFFE →
    let t := serviceInterrupt vector s
    let sp := s.cpu.sp
    let p := s.cpu.p
    t.ram.read (0x100 + sp.toNat) = s.cpu.pc.extractLsb' 8 8 ∧
    t.ram.read (0x100 + (sp - 1).toNat) = s.cpu.pc.extractLsb' 0 8 ∧
    t.ram.read (0x100 + (sp - 2).toNat) =
      BitVec.ofBool p.n ++ BitVec.ofBool p.v ++ BitVec.ofBool p.u ++ 0#1 ++
        BitVec.ofBool p.d ++ BitVec.ofBool p.i ++ BitVec.ofBool p.z ++ BitVec.ofBool p.c ∧
    (∀ k, k ≠ 0x100 + sp.toNat → k ≠ 0x100 + (sp - 1).toNat → k ≠ 0x100 + (sp - 2).toNat → t.ram.read k = s.ram.read k) ∧
    t.cpu =
      { s.cpu with sp := sp - 3, p := { p with i := true }, pc := addrOf (s.cart.prgByte (vector + 1)) (s.cart.prgByte vector) } ∧
    t = { s with cpu := t.cpu, ram := t.ram, io := { s.io with cpuBusLatch := t.io.cpuBusLatch } }

/-- With no reset pending and an NMI pending, whatever the interrupt-disable flag and a pending IRQ are, the step is ServiceInterrupt(0xFFFA), the NMI pending flag cleared, 7 cycles, and the rest of the iteration with 7 cycles. -/
def Obligations.NmiIsServicedUnconditionally : Prop :=
  ∀ s : State, s.cpu.fault = false → s.cpu.resetPending = false → s.cpu.nmiPending = true →
    let t := serviceInterrupt 0xFFFA s
    step s = .next (afterCpu 7 { t with cpu := { t.cpu with nmiPending := false, cycles := t.cpu.cycles + 7 } })

/-- With an IRQ pending and no reset and no NMI pending: when I is clear the step is ServiceInterrupt(0xFFFE), the IRQ pending flag cleared, 7 cycles; when I is set the step runs an instruction. -/
def Obligations.IrqIsServicedWhenEnabled : Prop :=
  ∀ s : State, s.cpu.fault = false → s.cpu.resetPending = false → s.cpu.nmiPending = false → s.cpu.irqPending = true →
    (s.cpu.p.i = false →
      let t := serviceInterrupt 0xFFFE s
      step s = .next (afterCpu 7 { t with cpu := { t.cpu with irqPending := false, cycles := t.cpu.cycles + 7 } })) ∧
    (s.cpu.p.i = true → RunsInstruction s)

/-- A host reset sets the reset pending flag, clears ctrl, mask, t, x, w, the read buffer, the position, frame_ready, nmi_request, the line snapshot and the sprite list of the PPU and the strobe, and keeps everything else. With a reset pending, whatever else is pending, the step loads PC from 0xFFFC, sets SP to 0xFD, sets I and U, zeroes the cycle counter, clears the three pending flags and the stall, keeps everything else, and the iteration runs no dot (that the bus latch is kept although the vector is read through the bus is the model's choice, log 23). -/
def Obligations.ResetIsServedFirst : Prop :=
  (∀ s : State,
    hostReset s =
      { s with
        cpu := { s.cpu with resetPending := true }
        ppu := { s.ppu with
          ctrl := 0, mask := 0, t := 0, x := 0, w := false, readBuffer := 0, scanline := 0, dot := 0
          frameReady := false, nmiRequest := false, lineScroll := 0, lineFineX := 0, lineSprites := [] }
        io := { s.io with strobe := false } }) ∧
  ∀ s : State, s.cpu.fault = false → s.cpu.resetPending = true →
    step s = .next (afterCpu 0
      { s with
        cpu := { s.cpu with
          pc := addrOf (s.cart.prgByte 0xFFFD) (s.cart.prgByte 0xFFFC), sp := 0xFD
          p := { s.cpu.p with i := true, u := true }
          cycles := 0, resetPending := false, nmiPending := false, irqPending := false, dmaStall := 0 } })

/-- After a CPU step that returned c, the PPU has run 3c dots; a completed frame is handed off (its copy presented, the count of frames one more, the buttons polled, the shift registers kept, frame_ready cleared); an NMI request becomes nmi_pending and is cleared; irq_pending is the external line (free values, log 7 and log 8); no memory of the CPU changes. -/
def Obligations.IterationAfterTheCpuStep : Prop :=
  ∀ (c : Nat) (s : State),
    let q := ppuRun s.env (3 * c) s.ppu
    let t := afterCpu c s
    t.ppu = { q with frameReady := false, nmiRequest := false } ∧
    t.cpu =
      { s.cpu with
        nmiPending := s.cpu.nmiPending || q.nmiRequest
        irqPending := Config.irqLine (if q.frameReady then s.draws + 1 else s.draws) } ∧
    t.io =
      { s.io with
        buttons1 := if q.frameReady then (Config.pollInput s.draws).1 else s.io.buttons1
        buttons2 := if q.frameReady then (Config.pollInput s.draws).2 else s.io.buttons2 } ∧
    t.frames = (if q.frameReady then s.frames + 1 else s.frames) ∧
    t.out = { s.out with presented := if q.frameReady then q.fbOut :: s.out.presented else s.out.presented } ∧
    t.ram = s.ram ∧ t.chrRam = s.chrRam ∧ t.cart = s.cart ∧ t.cfg = s.cfg

/-- A container with the signature, its whole body, mapper 0, one or two PRG banks, at most one CHR bank and flag bit 3 clear loads the PRG bytes, the CHR bytes or none, and the mirroring it describes, past the header and the trainer; any other is refused by the first test it fails. In the window 0x4020..0xFFFF a write changes nothing but the bus latch; a read from 0x8000 up answers the PRG byte at the offset modulo the PRG length, so that one bank reads the same at 0x8000 and 0xC000; a read below answers open bus (the free value of log 6, counted by log 11). After every step the cartridge (PRG, CHR, MIRRORING) and the configuration parameters are what they were. -/
def Obligations.ConfigurationNeverChanges : Prop :=
  (∀ c : List Byte,
    let flags := c.getD 6 0
    let prgN := (c.getD 4 0).toNat
    let chrN := (c.getD 5 0).toNat
    let off := if flags.getLsbD 2 then 528 else 16
    let whole := 16 ≤ c.length ∧ c.take 4 = [0x4E, 0x45, 0x53, 0x1A] ∧ off + 16384 * prgN + 8192 * chrN ≤ c.length
    let mapper0 := flags.extractLsb' 4 4 = 0 ∧ (c.getD 7 0).extractLsb' 4 4 = 0
    let supported := (prgN = 1 ∨ prgN = 2) ∧ (chrN = 0 ∨ chrN = 1) ∧ flags.getLsbD 3 = false
    (¬whole → loadContainer c = .error .formatError) ∧
    (whole → ¬mapper0 → loadContainer c = .error .unsupportedMapper) ∧
    (whole → mapper0 → ¬supported → loadContainer c = .error .unsupportedCartridge) ∧
    (whole → mapper0 → supported →
      ∃ cart, loadContainer c = .ok cart ∧ cart.Kept ∧ cart.prgSize = (if prgN = 1 then .one16K else .two16K) ∧
        (∀ k, k < 16384 * prgN → cart.prg.read k = c.getD (off + k) 0) ∧
        (chrN = 0 → cart.chr = .none) ∧
        (chrN = 1 → ∃ bytes, cart.chr = .rom bytes ∧ ∀ k, k < 8192 → bytes.read k = c.getD (off + 16384 * prgN + k) 0) ∧
        cart.mirroring = (if flags.getLsbD 0 then .vertical else .horizontal))) ∧
  (∀ (a : Addr) (v : Byte) (s : State), 0x4020 ≤ a.toNat →
    let latched := fun b : Byte => { s with io := { s.io with cpuBusLatch := b } }
    let prg := s.cart.prg.read ((a.toNat - 0x8000) % (if s.cart.prgSize = .one16K then 16384 else 32768))
    memWrite a v s = latched v ∧
    (0x8000 ≤ a.toNat → memRead a s = (prg, latched prg)) ∧
    (0x8000 ≤ a.toNat → a.toNat < 0xC000 → s.cart.prgSize = .one16K → memRead a s = memRead (a + 0x4000) s) ∧
    (a.toNat < 0x8000 →
      memRead a s = (Config.openBus s.draws, { latched (Config.openBus s.draws) with draws := s.draws + 1 }))) ∧
  ∀ s t : State, step s = .next t → t.cart = s.cart ∧ t.cfg = s.cfg

/-- After every step the stored Break flag is what it was, and the stored Unused flag is 1 when the step served a reset and what it was otherwise. -/
def Obligations.BreakIsKeptAndUnusedIsSetOnlyByReset : Prop :=
  ∀ s t : State, step s = .next t →
    t.cpu.p.b = s.cpu.p.b ∧ t.cpu.p.u = (if s.cpu.resetPending then true else s.cpu.p.u)

/-- From a state with no stall left over, the count a CPU step returns is 0 to 7, or 517 to 521. -/
def Obligations.CycleCountOfAStep : Prop :=
  ∀ (s t : State) (c : Nat), s.cpu.dmaStall = 0 → cpuStep s = .next (t, c) → c ≤ 7 ∨ (517 ≤ c ∧ c ≤ 521)

/-- A step with no reset pending never lowers the cycle counter; a step that serves a reset leaves it 0. -/
def Obligations.CycleCounterOnlyIncreases : Prop :=
  ∀ s t : State, step s = .next t →
    (s.cpu.resetPending = false → s.cpu.cycles ≤ t.cpu.cycles) ∧ (s.cpu.resetPending = true → t.cpu.cycles = 0)

/-- Each encoding of LDA, LDX and LDY decodes to its form; for every operand form and state, exec answers the state after the operand read (readOperand, stated by AddressingModes) with the register equal to M, Z = (M = 0), N = M[7], and nothing else changed. -/
def Obligations.LoadsSetRegisterAndZN : Prop :=
  (∀ b1 b2 : Byte,
    decodeBytes 0xA1 b1 b2 = .lda (.mem (.izx b1)) ∧
    decodeBytes 0xA5 b1 b2 = .lda (.mem (.zp b1)) ∧
    decodeBytes 0xA9 b1 b2 = .lda (.imm b1) ∧
    decodeBytes 0xAD b1 b2 = .lda (.mem (.abs (addrOf b2 b1))) ∧
    decodeBytes 0xB1 b1 b2 = .lda (.mem (.izy b1)) ∧
    decodeBytes 0xB5 b1 b2 = .lda (.mem (.zpx b1)) ∧
    decodeBytes 0xB9 b1 b2 = .lda (.mem (.aby (addrOf b2 b1))) ∧
    decodeBytes 0xBD b1 b2 = .lda (.mem (.abx (addrOf b2 b1))) ∧
    decodeBytes 0xA2 b1 b2 = .ldx (.imm b1) ∧
    decodeBytes 0xA6 b1 b2 = .ldx (.mem (.zp b1)) ∧
    decodeBytes 0xAE b1 b2 = .ldx (.mem (.abs (addrOf b2 b1))) ∧
    decodeBytes 0xB6 b1 b2 = .ldx (.mem (.zpy b1)) ∧
    decodeBytes 0xBE b1 b2 = .ldx (.mem (.aby (addrOf b2 b1))) ∧
    decodeBytes 0xA0 b1 b2 = .ldy (.imm b1) ∧
    decodeBytes 0xA4 b1 b2 = .ldy (.mem (.zp b1)) ∧
    decodeBytes 0xAC b1 b2 = .ldy (.mem (.abs (addrOf b2 b1))) ∧
    decodeBytes 0xB4 b1 b2 = .ldy (.mem (.zpx b1)) ∧
    decodeBytes 0xBC b1 b2 = .ldy (.mem (.abx (addrOf b2 b1)))) ∧
  ∀ (o : ReadOperand) (s : State),
    let r := readOperand o s
    exec (.lda o) s =
      .next { r.2 with cpu := { r.2.cpu with a := r.1, p := { r.2.cpu.p with z := decide (r.1 = 0), n := r.1.getLsbD 7 } } } ∧
    exec (.ldx o) s =
      .next { r.2 with cpu := { r.2.cpu with x := r.1, p := { r.2.cpu.p with z := decide (r.1 = 0), n := r.1.getLsbD 7 } } } ∧
    exec (.ldy o) s =
      .next { r.2 with cpu := { r.2.cpu with y := r.1, p := { r.2.cpu.p with z := decide (r.1 = 0), n := r.1.getLsbD 7 } } }

/-- Each encoding of STA, STX and STY decodes to its form; for every mode and state, exec answers the state after one bus write of the register at the effective address (resolve, storeCycles: stated by AddressingModes); no flag changes and nothing is read. -/
def Obligations.StoresWriteTheRegister : Prop :=
  (∀ b1 b2 : Byte,
    decodeBytes 0x81 b1 b2 = .sta (.izx b1) ∧
    decodeBytes 0x85 b1 b2 = .sta (.zp b1) ∧
    decodeBytes 0x8D b1 b2 = .sta (.abs (addrOf b2 b1)) ∧
    decodeBytes 0x91 b1 b2 = .sta (.izy b1) ∧
    decodeBytes 0x95 b1 b2 = .sta (.zpx b1) ∧
    decodeBytes 0x99 b1 b2 = .sta (.aby (addrOf b2 b1)) ∧
    decodeBytes 0x9D b1 b2 = .sta (.abx (addrOf b2 b1)) ∧
    decodeBytes 0x86 b1 b2 = .stx (.zp b1) ∧
    decodeBytes 0x8E b1 b2 = .stx (.abs (addrOf b2 b1)) ∧
    decodeBytes 0x96 b1 b2 = .stx (.zpy b1) ∧
    decodeBytes 0x84 b1 b2 = .sty (.zp b1) ∧
    decodeBytes 0x8C b1 b2 = .sty (.abs (addrOf b2 b1)) ∧
    decodeBytes 0x94 b1 b2 = .sty (.zpx b1)) ∧
  ∀ (m : EaMode) (s : State),
    let r := resolve m s
    exec (.sta m) s = .next (memWrite r.1.ea s.cpu.a { r.2 with cpu := { r.2.cpu with cycles := r.2.cpu.cycles + storeCycles m } }) ∧
    exec (.stx m) s = .next (memWrite r.1.ea s.cpu.x { r.2 with cpu := { r.2.cpu with cycles := r.2.cpu.cycles + storeCycles m } }) ∧
    exec (.sty m) s = .next (memWrite r.1.ea s.cpu.y { r.2 with cpu := { r.2.cpu with cycles := r.2.cpu.cycles + storeCycles m } })

/-- Each transfer decodes from its byte, takes 2 cycles, copies the source register, and sets Z and N of it; TXS sets no flag. -/
def Obligations.TransfersCopyTheRegister : Prop :=
  (∀ b1 b2 : Byte,
    decodeBytes 0xAA b1 b2 = .tax ∧
    decodeBytes 0xA8 b1 b2 = .tay ∧
    decodeBytes 0x8A b1 b2 = .txa ∧
    decodeBytes 0x98 b1 b2 = .tya ∧
    decodeBytes 0xBA b1 b2 = .tsx ∧
    decodeBytes 0x9A b1 b2 = .txs) ∧
  ∀ s : State,
    exec .tax s = .next { s with cpu := { s.cpu with x := s.cpu.a, cycles := s.cpu.cycles + 2, p := { s.cpu.p with z := decide (s.cpu.a = 0), n := (s.cpu.a).getLsbD 7 } } } ∧
    exec .tay s = .next { s with cpu := { s.cpu with y := s.cpu.a, cycles := s.cpu.cycles + 2, p := { s.cpu.p with z := decide (s.cpu.a = 0), n := (s.cpu.a).getLsbD 7 } } } ∧
    exec .txa s = .next { s with cpu := { s.cpu with a := s.cpu.x, cycles := s.cpu.cycles + 2, p := { s.cpu.p with z := decide (s.cpu.x = 0), n := (s.cpu.x).getLsbD 7 } } } ∧
    exec .tya s = .next { s with cpu := { s.cpu with a := s.cpu.y, cycles := s.cpu.cycles + 2, p := { s.cpu.p with z := decide (s.cpu.y = 0), n := (s.cpu.y).getLsbD 7 } } } ∧
    exec .tsx s = .next { s with cpu := { s.cpu with x := s.cpu.sp, cycles := s.cpu.cycles + 2, p := { s.cpu.p with z := decide (s.cpu.sp = 0), n := (s.cpu.sp).getLsbD 7 } } } ∧
    exec .txs s = .next { s with cpu := { s.cpu with sp := s.cpu.x, cycles := s.cpu.cycles + 2 } }

/-- PHA stores A, and PHP stores {N, V, U, 1, D, I, Z, C}, in the RAM cell 0x100 + SP; SP is one lower modulo 256; 3 cycles; the bus latch holds the byte; no flag and nothing else changes. -/
def Obligations.PushesWriteTheStack : Prop :=
  (∀ b1 b2 : Byte,
    decodeBytes 0x08 b1 b2 = .php ∧
    decodeBytes 0x48 b1 b2 = .pha) ∧
  ∀ s : State,
    let pushed := fun v : Byte =>
      { s with
        cpu := { s.cpu with sp := s.cpu.sp - 1, cycles := s.cpu.cycles + 3 }
        ram := s.ram.write (0x100 + s.cpu.sp.toNat) v
        io := { s.io with cpuBusLatch := v } }
    exec .pha s = .next (pushed s.cpu.a) ∧
    exec .php s = .next (pushed (
      BitVec.ofBool s.cpu.p.n ++ BitVec.ofBool s.cpu.p.v ++ BitVec.ofBool s.cpu.p.u ++ 1#1 ++
        BitVec.ofBool s.cpu.p.d ++ BitVec.ofBool s.cpu.p.i ++ BitVec.ofBool s.cpu.p.z ++ BitVec.ofBool s.cpu.p.c))

/-- With v the RAM cell 0x100 + (SP + 1): PLA sets A to v with Z and N; PLP takes N, V, D, I, Z and C from v and leaves B and U; SP is one higher modulo 256; 4 cycles; the bus latch holds v; nothing else changes. -/
def Obligations.PullsReadTheStack : Prop :=
  (∀ b1 b2 : Byte,
    decodeBytes 0x68 b1 b2 = .pla ∧
    decodeBytes 0x28 b1 b2 = .plp) ∧
  ∀ s : State,
    let v := s.ram.read (0x100 + (s.cpu.sp + 1).toNat)
    let pulled := fun c : Cpu => { s with cpu := { c with sp := s.cpu.sp + 1, cycles := s.cpu.cycles + 4 }, io := { s.io with cpuBusLatch := v } }
    exec .pla s = .next (pulled { s.cpu with a := v, p := { s.cpu.p with z := decide (v = 0), n := v.getLsbD 7 } }) ∧
    exec .plp s = .next (pulled { s.cpu with p := { s.cpu.p with
      n := v.getLsbD 7, v := v.getLsbD 6, d := v.getLsbD 3, i := v.getLsbD 2, z := v.getLsbD 1, c := v.getLsbD 0 } })

/-- Each encoding of ADC and SBC decodes to its form; for every operand form and state, exec answers the state after the operand read with A and N, V, Z, C from the decimal computation when DECIMAL_MODE = nmos and D = 1, and from the binary one otherwise, and nothing else changed. -/
def Obligations.AdcSbcComplete : Prop :=
  (∀ b1 b2 : Byte,
    decodeBytes 0x61 b1 b2 = .adc (.mem (.izx b1)) ∧
    decodeBytes 0x65 b1 b2 = .adc (.mem (.zp b1)) ∧
    decodeBytes 0x69 b1 b2 = .adc (.imm b1) ∧
    decodeBytes 0x6D b1 b2 = .adc (.mem (.abs (addrOf b2 b1))) ∧
    decodeBytes 0x71 b1 b2 = .adc (.mem (.izy b1)) ∧
    decodeBytes 0x75 b1 b2 = .adc (.mem (.zpx b1)) ∧
    decodeBytes 0x79 b1 b2 = .adc (.mem (.aby (addrOf b2 b1))) ∧
    decodeBytes 0x7D b1 b2 = .adc (.mem (.abx (addrOf b2 b1))) ∧
    decodeBytes 0xE1 b1 b2 = .sbc (.mem (.izx b1)) ∧
    decodeBytes 0xE5 b1 b2 = .sbc (.mem (.zp b1)) ∧
    decodeBytes 0xE9 b1 b2 = .sbc (.imm b1) ∧
    decodeBytes 0xED b1 b2 = .sbc (.mem (.abs (addrOf b2 b1))) ∧
    decodeBytes 0xF1 b1 b2 = .sbc (.mem (.izy b1)) ∧
    decodeBytes 0xF5 b1 b2 = .sbc (.mem (.zpx b1)) ∧
    decodeBytes 0xF9 b1 b2 = .sbc (.mem (.aby (addrOf b2 b1))) ∧
    decodeBytes 0xFD b1 b2 = .sbc (.mem (.abx (addrOf b2 b1)))) ∧
  ∀ (o : ReadOperand) (s : State),
    let r := readOperand o s
    let decimal := s.cfg.decimalMode = .nmos ∧ s.cpu.p.d = true
    (¬decimal → exec (.adc o) s =
      .next { r.2 with cpu := { r.2.cpu with
        a := (adcBinary s.cpu.a r.1 s.cpu.p.c).r
        p := { r.2.cpu.p with n := (adcBinary s.cpu.a r.1 s.cpu.p.c).n, v := (adcBinary s.cpu.a r.1 s.cpu.p.c).v, z := (adcBinary s.cpu.a r.1 s.cpu.p.c).z, c := (adcBinary s.cpu.a r.1 s.cpu.p.c).c } } }) ∧
    (¬decimal → exec (.sbc o) s =
      .next { r.2 with cpu := { r.2.cpu with
        a := (sbcBinary s.cpu.a r.1 s.cpu.p.c).r
        p := { r.2.cpu.p with n := (sbcBinary s.cpu.a r.1 s.cpu.p.c).n, v := (sbcBinary s.cpu.a r.1 s.cpu.p.c).v, z := (sbcBinary s.cpu.a r.1 s.cpu.p.c).z, c := (sbcBinary s.cpu.a r.1 s.cpu.p.c).c } } }) ∧
    (decimal → exec (.adc o) s =
      .next { r.2 with cpu := { r.2.cpu with
        a := (adcDecimal s.cpu.a r.1 s.cpu.p.c).r
        p := { r.2.cpu.p with n := (adcDecimal s.cpu.a r.1 s.cpu.p.c).n, v := (adcDecimal s.cpu.a r.1 s.cpu.p.c).v, z := (adcDecimal s.cpu.a r.1 s.cpu.p.c).z, c := (adcDecimal s.cpu.a r.1 s.cpu.p.c).c } } }) ∧
    (decimal → exec (.sbc o) s =
      .next { r.2 with cpu := { r.2.cpu with
        a := (sbcDecimal s.cpu.a r.1 s.cpu.p.c).r
        p := { r.2.cpu.p with n := (sbcDecimal s.cpu.a r.1 s.cpu.p.c).n, v := (sbcDecimal s.cpu.a r.1 s.cpu.p.c).v, z := (sbcDecimal s.cpu.a r.1 s.cpu.p.c).z, c := (sbcDecimal s.cpu.a r.1 s.cpu.p.c).c } } })

/-- Binary ADC of A, M and C leaves A + M + C modulo 256, C the carry out of bit 7, V the two's-complement overflow of the sum, Z and N of the result. -/
def Obligations.AdcBinaryIsExactAddition : Prop :=
  ∀ (a m : Byte) (c : Bool),
    let q := adcBinary a m c
    let sum : Int := a.toInt + m.toInt + c.toNat
    q.r.toNat = (a.toNat + m.toNat + c.toNat) % 256 ∧
    (q.c = true ↔ 255 < a.toNat + m.toNat + c.toNat) ∧
    (q.v = true ↔ (sum < -128 ∨ 127 < sum)) ∧
    (q.z = true ↔ q.r = 0) ∧ q.n = q.r.getLsbD 7

/-- Binary SBC of A, M and C leaves A - M - (1 - C) modulo 256, C = 1 exactly when A is at least M + (1 - C), V the two's-complement overflow of the difference, Z and N of the result. -/
def Obligations.SbcBinaryIsExactSubtraction : Prop :=
  ∀ (a m : Byte) (c : Bool),
    let q := sbcBinary a m c
    let borrow : Int := 1 - c.toNat
    let diff : Int := a.toInt - m.toInt - borrow
    (q.r.toNat : Int) = (a.toNat - m.toNat - borrow) % 256 ∧
    (q.c = true ↔ (m.toNat : Int) + borrow ≤ a.toNat) ∧
    (q.v = true ↔ (diff < -128 ∨ 127 < diff)) ∧
    (q.z = true ↔ q.r = 0) ∧ q.n = q.r.getLsbD 7

/-- For any A, M and C: decimal ADC adds the low digits with the carry, adjusts from 10 up, adds the high digits to give t, leaves N = t[7], V = the signed sum out of -128..127, C = (t at least 0xA0), Z = (the binary sum is 0 modulo 256), A = t, or t + 0x60 where t is at least 0xA0, modulo 256; decimal SBC leaves the flags of binary SBC, and A by the low-digit difference adjusted below 0 and the high-digit difference adjusted below 0. For operands of two decimal digits each: decimal ADC leaves the two-digit sum modulo 100 with C = 1 exactly when the sum is at least 100; decimal SBC leaves the two-digit difference modulo 100 with C = 1 exactly when there is no borrow. -/
def Obligations.DecimalArithmeticIsBcd : Prop :=
  (∀ (a m : Byte) (c : Bool),
    let q := adcDecimal a m c
    let low := a.toNat % 16 + m.toNat % 16 + c.toNat
    let al := if 10 ≤ low then (low + 6) % 16 + 16 else low
    let t := a.toNat / 16 * 16 + m.toNat / 16 * 16 + al
    let ts : Int := (a &&& 0xF0).toInt + (m &&& 0xF0).toInt + al
    (q.n = true ↔ 128 ≤ t % 256) ∧ (q.v = true ↔ (ts < -128 ∨ 127 < ts)) ∧ (q.c = true ↔ 160 ≤ t) ∧
    (q.z = true ↔ (a.toNat + m.toNat + c.toNat) % 256 = 0) ∧ q.r.toNat = (if 160 ≤ t then t + 96 else t) % 256) ∧
  (∀ (a m : Byte) (c : Bool),
    let q := sbcDecimal a m c
    let b := sbcBinary a m c
    let low : Int := (a.toNat % 16 : Nat) - (m.toNat % 16 : Nat) + (c.toNat : Nat) - 1
    let al : Int := if low < 0 then (low - 6) % 16 - 16 else low
    let t : Int := (a.toNat / 16 * 16 : Nat) - (m.toNat / 16 * 16 : Nat) + al
    q.n = b.n ∧ q.v = b.v ∧ q.z = b.z ∧ q.c = b.c ∧ (q.r.toNat : Int) = (if t < 0 then t - 96 else t) % 256) ∧
  ∀ (h1 l1 h2 l2 : Nat) (c : Bool), h1 ≤ 9 → l1 ≤ 9 → h2 ≤ 9 → l2 ≤ 9 →
    let a := BitVec.ofNat 8 (16 * h1 + l1)
    let m := BitVec.ofNat 8 (16 * h2 + l2)
    let sum := 10 * h1 + l1 + (10 * h2 + l2) + c.toNat
    let diff : Int := (10 * h1 + l1 : Nat) - (10 * h2 + l2 : Nat) - (1 - c.toNat)
    (adcDecimal a m c).r.toNat = 16 * (sum % 100 / 10) + sum % 10 ∧
    ((adcDecimal a m c).c = true ↔ 100 ≤ sum) ∧
    ((sbcDecimal a m c).r.toNat : Int) = 16 * (diff % 100 / 10) + diff % 10 ∧
    ((sbcDecimal a m c).c = true ↔ 0 ≤ diff)

/-- Each encoding decodes to its form; for every operand form and state, exec answers the state after the operand read with C = (R is at least M, unsigned), Z = (R = M), N = bit 7 of R - M; V and the register stay. -/
def Obligations.ComparesSetNZC : Prop :=
  (∀ b1 b2 : Byte,
    decodeBytes 0xC1 b1 b2 = .cmp (.mem (.izx b1)) ∧
    decodeBytes 0xC5 b1 b2 = .cmp (.mem (.zp b1)) ∧
    decodeBytes 0xC9 b1 b2 = .cmp (.imm b1) ∧
    decodeBytes 0xCD b1 b2 = .cmp (.mem (.abs (addrOf b2 b1))) ∧
    decodeBytes 0xD1 b1 b2 = .cmp (.mem (.izy b1)) ∧
    decodeBytes 0xD5 b1 b2 = .cmp (.mem (.zpx b1)) ∧
    decodeBytes 0xD9 b1 b2 = .cmp (.mem (.aby (addrOf b2 b1))) ∧
    decodeBytes 0xDD b1 b2 = .cmp (.mem (.abx (addrOf b2 b1))) ∧
    decodeBytes 0xE0 b1 b2 = .cpx (.imm b1) ∧
    decodeBytes 0xE4 b1 b2 = .cpx (.mem (.zp b1)) ∧
    decodeBytes 0xEC b1 b2 = .cpx (.mem (.abs (addrOf b2 b1))) ∧
    decodeBytes 0xC0 b1 b2 = .cpy (.imm b1) ∧
    decodeBytes 0xC4 b1 b2 = .cpy (.mem (.zp b1)) ∧
    decodeBytes 0xCC b1 b2 = .cpy (.mem (.abs (addrOf b2 b1)))) ∧
  ∀ (o : ReadOperand) (s : State),
    let r := readOperand o s
    exec (.cmp o) s =
      .next { r.2 with cpu := { r.2.cpu with p := { r.2.cpu.p with
        c := decide (r.1.toNat ≤ s.cpu.a.toNat), z := decide (s.cpu.a = r.1), n := (s.cpu.a - r.1).getLsbD 7 } } } ∧
    exec (.cpx o) s =
      .next { r.2 with cpu := { r.2.cpu with p := { r.2.cpu.p with
        c := decide (r.1.toNat ≤ s.cpu.x.toNat), z := decide (s.cpu.x = r.1), n := (s.cpu.x - r.1).getLsbD 7 } } } ∧
    exec (.cpy o) s =
      .next { r.2 with cpu := { r.2.cpu with p := { r.2.cpu.p with
        c := decide (r.1.toNat ≤ s.cpu.y.toNat), z := decide (s.cpu.y = r.1), n := (s.cpu.y - r.1).getLsbD 7 } } }

/-- Each encoding decodes to its form; for every mode and state, exec answers the state after one bus read at the effective address and then one bus write there of the byte plus 1 (INC) or minus 1 (DEC) modulo 256, with Z and N of the new byte; C and V stay. -/
def Obligations.IncDecMemory : Prop :=
  (∀ b1 b2 : Byte,
    decodeBytes 0xE6 b1 b2 = .inc (.zp b1) ∧
    decodeBytes 0xEE b1 b2 = .inc (.abs (addrOf b2 b1)) ∧
    decodeBytes 0xF6 b1 b2 = .inc (.zpx b1) ∧
    decodeBytes 0xFE b1 b2 = .inc (.abx (addrOf b2 b1)) ∧
    decodeBytes 0xC6 b1 b2 = .dec (.zp b1) ∧
    decodeBytes 0xCE b1 b2 = .dec (.abs (addrOf b2 b1)) ∧
    decodeBytes 0xD6 b1 b2 = .dec (.zpx b1) ∧
    decodeBytes 0xDE b1 b2 = .dec (.abx (addrOf b2 b1))) ∧
  ∀ (m : EaMode) (s : State),
    let r := resolve m s
    let v := memRead r.1.ea { r.2 with cpu := { r.2.cpu with cycles := r.2.cpu.cycles + modifyCycles m } }
    let wrote := fun (b : Byte) (p : Flags) => { memWrite r.1.ea b v.2 with cpu := { (memWrite r.1.ea b v.2).cpu with p := p } }
    exec (.inc m) s =
      .next (wrote (v.1 + 1) { v.2.cpu.p with z := decide ((v.1 + 1) = 0), n := (v.1 + 1).getLsbD 7 }) ∧
    exec (.dec m) s =
      .next (wrote (v.1 - 1) { v.2.cpu.p with z := decide ((v.1 - 1) = 0), n := (v.1 - 1).getLsbD 7 })

/-- Each decodes from its byte, takes 2 cycles, adds or subtracts 1 modulo 256 and sets Z and N of the result; nothing else changes. -/
def Obligations.IncDecRegisters : Prop :=
  (∀ b1 b2 : Byte,
    decodeBytes 0xE8 b1 b2 = .inx ∧
    decodeBytes 0xC8 b1 b2 = .iny ∧
    decodeBytes 0xCA b1 b2 = .dex ∧
    decodeBytes 0x88 b1 b2 = .dey) ∧
  ∀ s : State,
    exec .inx s = .next { s with cpu := { s.cpu with x := s.cpu.x + 1, cycles := s.cpu.cycles + 2, p := { s.cpu.p with z := decide (s.cpu.x + 1 = 0), n := (s.cpu.x + 1).getLsbD 7 } } } ∧
    exec .iny s = .next { s with cpu := { s.cpu with y := s.cpu.y + 1, cycles := s.cpu.cycles + 2, p := { s.cpu.p with z := decide (s.cpu.y + 1 = 0), n := (s.cpu.y + 1).getLsbD 7 } } } ∧
    exec .dex s = .next { s with cpu := { s.cpu with x := s.cpu.x - 1, cycles := s.cpu.cycles + 2, p := { s.cpu.p with z := decide (s.cpu.x - 1 = 0), n := (s.cpu.x - 1).getLsbD 7 } } } ∧
    exec .dey s = .next { s with cpu := { s.cpu with y := s.cpu.y - 1, cycles := s.cpu.cycles + 2, p := { s.cpu.p with z := decide (s.cpu.y - 1 = 0), n := (s.cpu.y - 1).getLsbD 7 } } }

/-- Each encoding decodes to its form; for every operand form and state, exec answers the state after the operand read with A the bitwise AND, OR or exclusive OR of A and M and Z, N of it; nothing else changes. -/
def Obligations.LogicInstructions : Prop :=
  (∀ b1 b2 : Byte,
    decodeBytes 0x21 b1 b2 = .and (.mem (.izx b1)) ∧
    decodeBytes 0x25 b1 b2 = .and (.mem (.zp b1)) ∧
    decodeBytes 0x29 b1 b2 = .and (.imm b1) ∧
    decodeBytes 0x2D b1 b2 = .and (.mem (.abs (addrOf b2 b1))) ∧
    decodeBytes 0x31 b1 b2 = .and (.mem (.izy b1)) ∧
    decodeBytes 0x35 b1 b2 = .and (.mem (.zpx b1)) ∧
    decodeBytes 0x39 b1 b2 = .and (.mem (.aby (addrOf b2 b1))) ∧
    decodeBytes 0x3D b1 b2 = .and (.mem (.abx (addrOf b2 b1))) ∧
    decodeBytes 0x01 b1 b2 = .ora (.mem (.izx b1)) ∧
    decodeBytes 0x05 b1 b2 = .ora (.mem (.zp b1)) ∧
    decodeBytes 0x09 b1 b2 = .ora (.imm b1) ∧
    decodeBytes 0x0D b1 b2 = .ora (.mem (.abs (addrOf b2 b1))) ∧
    decodeBytes 0x11 b1 b2 = .ora (.mem (.izy b1)) ∧
    decodeBytes 0x15 b1 b2 = .ora (.mem (.zpx b1)) ∧
    decodeBytes 0x19 b1 b2 = .ora (.mem (.aby (addrOf b2 b1))) ∧
    decodeBytes 0x1D b1 b2 = .ora (.mem (.abx (addrOf b2 b1))) ∧
    decodeBytes 0x41 b1 b2 = .eor (.mem (.izx b1)) ∧
    decodeBytes 0x45 b1 b2 = .eor (.mem (.zp b1)) ∧
    decodeBytes 0x49 b1 b2 = .eor (.imm b1) ∧
    decodeBytes 0x4D b1 b2 = .eor (.mem (.abs (addrOf b2 b1))) ∧
    decodeBytes 0x51 b1 b2 = .eor (.mem (.izy b1)) ∧
    decodeBytes 0x55 b1 b2 = .eor (.mem (.zpx b1)) ∧
    decodeBytes 0x59 b1 b2 = .eor (.mem (.aby (addrOf b2 b1))) ∧
    decodeBytes 0x5D b1 b2 = .eor (.mem (.abx (addrOf b2 b1)))) ∧
  ∀ (o : ReadOperand) (s : State),
    let r := readOperand o s
    exec (.and o) s =
      .next { r.2 with cpu := { r.2.cpu with a := s.cpu.a &&& r.1, p := { r.2.cpu.p with z := decide (s.cpu.a &&& r.1 = 0), n := (s.cpu.a &&& r.1).getLsbD 7 } } } ∧
    exec (.ora o) s =
      .next { r.2 with cpu := { r.2.cpu with a := s.cpu.a ||| r.1, p := { r.2.cpu.p with z := decide (s.cpu.a ||| r.1 = 0), n := (s.cpu.a ||| r.1).getLsbD 7 } } } ∧
    exec (.eor o) s =
      .next { r.2 with cpu := { r.2.cpu with a := s.cpu.a ^^^ r.1, p := { r.2.cpu.p with z := decide (s.cpu.a ^^^ r.1 = 0), n := (s.cpu.a ^^^ r.1).getLsbD 7 } } }

/-- Each encoding of BIT decodes to its form; for every mode and state, exec answers the state after the read of M with Z = (A AND M = 0), N = M[7], V = M[6]; A is not written. At Status the N it leaves is the VBlank bit as it was before the read, which clears it. -/
def Obligations.BitTestsTheOperand : Prop :=
  (∀ b1 b2 : Byte,
    decodeBytes 0x24 b1 b2 = .bit (.zp b1) ∧
    decodeBytes 0x2C b1 b2 = .bit (.abs (addrOf b2 b1))) ∧
  (∀ (m : EaMode) (s : State),
    let r := readMem m s
    exec (.bit m) s =
      .next { r.2 with cpu := { r.2.cpu with p := { r.2.cpu.p with
        z := decide (s.cpu.a &&& r.1 = 0), n := r.1.getLsbD 7, v := r.1.getLsbD 6 } } }) ∧
  ∀ s : State, ∃ t, exec (.bit (.abs 0x2002)) s = .next t ∧
    t.cpu.p.n = s.ppu.vblank ∧ t.cpu.p.v = s.ppu.sprite0Hit ∧ t.ppu.vblank = false ∧ t.ppu.w = false

/-- Each encoding decodes to its form; on the accumulator (2 cycles) and, with one bus read and one bus write, on memory: ASL shifts left, LSR shifts right, ROL and ROR rotate through C; C is the bit shifted out, Z and N are of the result; nothing else changes. -/
def Obligations.ShiftsAndRotates : Prop :=
  (∀ b1 b2 : Byte,
    decodeBytes 0x06 b1 b2 = .asl (.mem (.zp b1)) ∧
    decodeBytes 0x0A b1 b2 = .asl .acc ∧
    decodeBytes 0x0E b1 b2 = .asl (.mem (.abs (addrOf b2 b1))) ∧
    decodeBytes 0x16 b1 b2 = .asl (.mem (.zpx b1)) ∧
    decodeBytes 0x1E b1 b2 = .asl (.mem (.abx (addrOf b2 b1))) ∧
    decodeBytes 0x46 b1 b2 = .lsr (.mem (.zp b1)) ∧
    decodeBytes 0x4A b1 b2 = .lsr .acc ∧
    decodeBytes 0x4E b1 b2 = .lsr (.mem (.abs (addrOf b2 b1))) ∧
    decodeBytes 0x56 b1 b2 = .lsr (.mem (.zpx b1)) ∧
    decodeBytes 0x5E b1 b2 = .lsr (.mem (.abx (addrOf b2 b1))) ∧
    decodeBytes 0x26 b1 b2 = .rol (.mem (.zp b1)) ∧
    decodeBytes 0x2A b1 b2 = .rol .acc ∧
    decodeBytes 0x2E b1 b2 = .rol (.mem (.abs (addrOf b2 b1))) ∧
    decodeBytes 0x36 b1 b2 = .rol (.mem (.zpx b1)) ∧
    decodeBytes 0x3E b1 b2 = .rol (.mem (.abx (addrOf b2 b1))) ∧
    decodeBytes 0x66 b1 b2 = .ror (.mem (.zp b1)) ∧
    decodeBytes 0x6A b1 b2 = .ror .acc ∧
    decodeBytes 0x6E b1 b2 = .ror (.mem (.abs (addrOf b2 b1))) ∧
    decodeBytes 0x76 b1 b2 = .ror (.mem (.zpx b1)) ∧
    decodeBytes 0x7E b1 b2 = .ror (.mem (.abx (addrOf b2 b1)))) ∧
  (∀ s : State,
    let inAcc := fun (b : Byte) (c : Bool) =>
      { s with cpu := { s.cpu with a := b, cycles := s.cpu.cycles + 2, p := { s.cpu.p with c := c, z := decide (b = 0), n := b.getLsbD 7 } } }
    exec (.asl .acc) s = .next (inAcc (s.cpu.a <<< 1) (s.cpu.a.getLsbD 7)) ∧
    exec (.lsr .acc) s = .next (inAcc (s.cpu.a >>> 1) (s.cpu.a.getLsbD 0)) ∧
    exec (.rol .acc) s = .next (inAcc ((s.cpu.a <<< 1) ||| (BitVec.ofBool s.cpu.p.c).setWidth 8) (s.cpu.a.getLsbD 7)) ∧
    exec (.ror .acc) s = .next (inAcc (((BitVec.ofBool s.cpu.p.c).setWidth 8 <<< 7) ||| (s.cpu.a >>> 1)) (s.cpu.a.getLsbD 0))) ∧
  ∀ (m : EaMode) (s : State),
    let r := resolve m s
    let v := memRead r.1.ea { r.2 with cpu := { r.2.cpu with cycles := r.2.cpu.cycles + modifyCycles m } }
    let wrote := fun (b : Byte) (c : Bool) =>
      { memWrite r.1.ea b v.2 with
        cpu := { (memWrite r.1.ea b v.2).cpu with p := { v.2.cpu.p with c := c, z := decide (b = 0), n := b.getLsbD 7 } } }
    exec (.asl (.mem m)) s = .next (wrote (v.1 <<< 1) (v.1.getLsbD 7)) ∧
    exec (.lsr (.mem m)) s = .next (wrote (v.1 >>> 1) (v.1.getLsbD 0)) ∧
    exec (.rol (.mem m)) s = .next (wrote ((v.1 <<< 1) ||| (BitVec.ofBool v.2.cpu.p.c).setWidth 8) (v.1.getLsbD 7)) ∧
    exec (.ror (.mem m)) s = .next (wrote (((BitVec.ofBool v.2.cpu.p.c).setWidth 8 <<< 7) ||| (v.1 >>> 1)) (v.1.getLsbD 0))

/-- After ROL on the accumulator and then ROR on it, or the other way round, A and C are what they were. -/
def Obligations.RotateRightUndoesRotateLeft : Prop :=
  ∀ s t u : State,
    (exec (.rol .acc) s = .next t → exec (.ror .acc) t = .next u → u.cpu.a = s.cpu.a ∧ u.cpu.p.c = s.cpu.p.c) ∧
    (exec (.ror .acc) s = .next t → exec (.rol .acc) t = .next u → u.cpu.a = s.cpu.a ∧ u.cpu.p.c = s.cpu.p.c)

/-- Each branch decodes from its byte; with the PC past the instruction, when its flag condition holds PC becomes PC plus the sign-extended offset modulo 65536 at 3 cycles, or 4 when the target is in another page; otherwise PC stays at 2 cycles; no flag, memory or other register changes. -/
def Obligations.BranchesFollowTheirFlag : Prop :=
  (∀ b1 b2 : Byte,
    decodeBytes 0x90 b1 b2 = .bcc b1 ∧
    decodeBytes 0xB0 b1 b2 = .bcs b1 ∧
    decodeBytes 0xF0 b1 b2 = .beq b1 ∧
    decodeBytes 0x30 b1 b2 = .bmi b1 ∧
    decodeBytes 0xD0 b1 b2 = .bne b1 ∧
    decodeBytes 0x10 b1 b2 = .bpl b1 ∧
    decodeBytes 0x50 b1 b2 = .bvc b1 ∧
    decodeBytes 0x70 b1 b2 = .bvs b1) ∧
  ∀ (oo : Byte) (s : State),
    let target := s.cpu.pc + oo.signExtend 16
    let crossed := if s.cpu.pc.extractLsb' 8 8 = target.extractLsb' 8 8 then 0 else 1
    let outcome := fun cond : Bool =>
      if cond then { s with cpu := { s.cpu with pc := target, cycles := s.cpu.cycles + (2 + 1 + crossed) } }
      else { s with cpu := { s.cpu with cycles := s.cpu.cycles + 2 } }
    exec (.bcc oo) s = .next (outcome (!s.cpu.p.c)) ∧
    exec (.bcs oo) s = .next (outcome (s.cpu.p.c)) ∧
    exec (.beq oo) s = .next (outcome (s.cpu.p.z)) ∧
    exec (.bmi oo) s = .next (outcome (s.cpu.p.n)) ∧
    exec (.bne oo) s = .next (outcome (!s.cpu.p.z)) ∧
    exec (.bpl oo) s = .next (outcome (!s.cpu.p.n)) ∧
    exec (.bvc oo) s = .next (outcome (!s.cpu.p.v)) ∧
    exec (.bvs oo) s = .next (outcome (s.cpu.p.v))

/-- JMP absolute sets PC to its operand in 3 cycles and changes nothing else; JMP indirect reads the low byte at the pointer and the high byte at the next address of the same page (wrapping from 0xFF to 0x00), in that order through the bus, and sets PC to them, in 5 cycles. -/
def Obligations.JumpsSetThePc : Prop :=
  (∀ b1 b2 : Byte,
    decodeBytes 0x4C b1 b2 = .jmp (addrOf b2 b1) ∧
    decodeBytes 0x6C b1 b2 = .jmpInd (addrOf b2 b1)) ∧
  (∀ (a : Addr) (s : State), exec (.jmp a) s = .next { s with cpu := { s.cpu with pc := a, cycles := s.cpu.cycles + 3 } }) ∧
  ∀ (hh ll : Byte) (s : State),
    let lo := memRead (addrOf hh ll) { s with cpu := { s.cpu with cycles := s.cpu.cycles + 5 } }
    let hi := memRead (addrOf hh (ll + 1)) lo.2
    exec (.jmpInd (addrOf hh ll)) s = .next { hi.2 with cpu := { hi.2.cpu with pc := addrOf hi.1 lo.1 } }

/-- JSR pushes the high and then the low byte of PC - 1 (PC past the instruction) at 0x100 + SP and below, leaves SP 2 lower, sets PC to its operand, 6 cycles; RTS pulls the low and then the high byte, leaves SP 2 higher, sets PC to them plus 1 modulo 65536, 6 cycles; no flag and nothing else changes but the bus latch. -/
def Obligations.CallAndReturn : Prop :=
  (∀ b1 b2 : Byte,
    decodeBytes 0x20 b1 b2 = .jsr (addrOf b2 b1) ∧
    decodeBytes 0x60 b1 b2 = .rts) ∧
  ∀ (target : Addr) (s : State),
    let ret := s.cpu.pc - 1
    let sp := s.cpu.sp
    let lo := s.ram.read (0x100 + (sp + 1).toNat)
    let hi := s.ram.read (0x100 + (sp + 2).toNat)
    exec (.jsr target) s =
      .next { s with
        cpu := { s.cpu with pc := target, sp := sp - 2, cycles := s.cpu.cycles + 6 }
        ram := (s.ram.write (0x100 + sp.toNat) (ret.extractLsb' 8 8)).write (0x100 + (sp - 1).toNat) (ret.extractLsb' 0 8)
        io := { s.io with cpuBusLatch := ret.extractLsb' 0 8 } } ∧
    exec .rts s =
      .next { s with
        cpu := { s.cpu with pc := addrOf hi lo + 1, sp := sp + 2, cycles := s.cpu.cycles + 6 }
        io := { s.io with cpuBusLatch := hi } }

/-- After a JSR from s, an RTS run in any state that has the JSR's SP and the JSR's page 1 sets PC to the address after the JSR and SP to what it was before it. -/
def Obligations.ReturnUndoesCall : Prop :=
  ∀ (target : Addr) (s t u w : State),
    exec (.jsr target) s = .next t → u.cpu.sp = t.cpu.sp →
    (∀ k, 0x100 ≤ k → k ≤ 0x1FF → u.ram.read k = t.ram.read k) →
    exec .rts u = .next w → w.cpu.pc = s.cpu.pc ∧ w.cpu.sp = s.cpu.sp

/-- Each flag instruction decodes from its byte, takes 2 cycles, and writes its one flag and nothing else; NOP takes 2 cycles and changes nothing. -/
def Obligations.FlagInstructionsAndNop : Prop :=
  (∀ b1 b2 : Byte,
    decodeBytes 0x18 b1 b2 = .clc ∧
    decodeBytes 0xD8 b1 b2 = .cld ∧
    decodeBytes 0x58 b1 b2 = .cli ∧
    decodeBytes 0xB8 b1 b2 = .clv ∧
    decodeBytes 0x38 b1 b2 = .sec ∧
    decodeBytes 0xF8 b1 b2 = .sed ∧
    decodeBytes 0x78 b1 b2 = .sei ∧
    decodeBytes 0xEA b1 b2 = .nop) ∧
  ∀ s : State,
    exec .clc s = .next { s with cpu := { s.cpu with cycles := s.cpu.cycles + 2, p := { s.cpu.p with c := false } } } ∧
    exec .cld s = .next { s with cpu := { s.cpu with cycles := s.cpu.cycles + 2, p := { s.cpu.p with d := false } } } ∧
    exec .cli s = .next { s with cpu := { s.cpu with cycles := s.cpu.cycles + 2, p := { s.cpu.p with i := false } } } ∧
    exec .clv s = .next { s with cpu := { s.cpu with cycles := s.cpu.cycles + 2, p := { s.cpu.p with v := false } } } ∧
    exec .sec s = .next { s with cpu := { s.cpu with cycles := s.cpu.cycles + 2, p := { s.cpu.p with c := true } } } ∧
    exec .sed s = .next { s with cpu := { s.cpu with cycles := s.cpu.cycles + 2, p := { s.cpu.p with d := true } } } ∧
    exec .sei s = .next { s with cpu := { s.cpu with cycles := s.cpu.cycles + 2, p := { s.cpu.p with i := true } } } ∧
    exec .nop s = .next { s with cpu := { s.cpu with cycles := s.cpu.cycles + 2 } }

/-- BRK, with PC one past its opcode and whatever I holds, pushes PC + 1 high and low and {N, V, U, 1, D, I, Z, C}, leaves SP 3 lower, sets I, leaves D and every other flag, and loads PC from the IRQ vector; 7 cycles; nothing else changes but the bus latch. -/
def Obligations.BreakEntersTheIrqHandler : Prop :=
  (∀ b1 b2 : Byte,
    decodeBytes 0x00 b1 b2 = .brk) ∧
  ∀ s : State,
    let ret := s.cpu.pc + 1
    let sp := s.cpu.sp
    exec .brk s =
      .next { s with
        cpu := { s.cpu with
          sp := sp - 3
          p := { s.cpu.p with i := true }
          pc := addrOf (s.cart.prgByte 0xFFFF) (s.cart.prgByte 0xFFFE)
          cycles := s.cpu.cycles + 7 }
        ram := ((s.ram.write (0x100 + sp.toNat) (ret.extractLsb' 8 8)).write (0x100 + (sp - 1).toNat) (ret.extractLsb' 0 8)).write
          (0x100 + (sp - 2).toNat) (
      BitVec.ofBool s.cpu.p.n ++ BitVec.ofBool s.cpu.p.v ++ BitVec.ofBool s.cpu.p.u ++ 1#1 ++
        BitVec.ofBool s.cpu.p.d ++ BitVec.ofBool s.cpu.p.i ++ BitVec.ofBool s.cpu.p.z ++ BitVec.ofBool s.cpu.p.c)
        io := { s.io with cpuBusLatch := s.cart.prgByte 0xFFFF } }

/-- RTI takes N, V, D, I, Z and C from the first pulled byte, leaves B and U, and sets PC to the next two pulled bytes, low then high, with no addition; SP is 3 higher; 6 cycles; nothing else changes but the bus latch. -/
def Obligations.ReturnFromInterruptRestores : Prop :=
  (∀ b1 b2 : Byte,
    decodeBytes 0x40 b1 b2 = .rti) ∧
  ∀ s : State,
    let sp := s.cpu.sp
    let v := s.ram.read (0x100 + (sp + 1).toNat)
    let lo := s.ram.read (0x100 + (sp + 2).toNat)
    let hi := s.ram.read (0x100 + (sp + 3).toNat)
    exec .rti s =
      .next { s with
        cpu := { s.cpu with
          sp := sp + 3
          pc := addrOf hi lo
          cycles := s.cpu.cycles + 6
          p := { s.cpu.p with n := v.getLsbD 7, v := v.getLsbD 6, d := v.getLsbD 3, i := v.getLsbD 2, z := v.getLsbD 1, c := v.getLsbD 0 } }
        io := { s.io with cpuBusLatch := hi } }

/-- After the entry of NMI, IRQ or BRK from s with return address ret, an RTI run in any state that has the entry's SP and page 1 sets PC to ret, SP to what it was, and N, V, D, I, Z and C to those of s, leaving its own B and U. -/
def Obligations.ReturnUndoesInterrupt : Prop :=
  ∀ (ret vector : Addr) (brk : Bool) (s u w : State), vector = 0xFFFA ∨ vector = 0xFFFE →
    u.cpu.sp = (enterInterrupt ret brk vector s).cpu.sp →
    (∀ k, 0x100 ≤ k → k ≤ 0x1FF → u.ram.read k = (enterInterrupt ret brk vector s).ram.read k) →
    exec .rti u = .next w →
    w.cpu.pc = ret ∧ w.cpu.sp = s.cpu.sp ∧ w.cpu.p = { s.cpu.p with b := u.cpu.p.b, u := u.cpu.p.u }

/-- Each of the 105 illegal opcode bytes decodes to the illegal instruction of that byte; with PC one past it, exec counts the anomaly and logs (op, PC0); under nop1 it takes 1 cycle and changes nothing else; under fatal it sets cpu.fault, takes no cycle, and the state it leaves has no further step. -/
def Obligations.IllegalOpcodePolicy : Prop :=
  ∀ (op b1 b2 : Byte) (s : State), illegalOpcodes.contains op.toNat = true →
    decodeBytes op b1 b2 = .illegal op ∧
    let logged := { s.out with anomalies := (op, s.cpu.pc - 1) :: s.out.anomalies }
    (s.cfg.illegalPolicy = .nop1 →
      exec (.illegal op) s =
        .next { s with cpu := { s.cpu with anomalyCount := s.cpu.anomalyCount + 1, cycles := s.cpu.cycles + 1 }, out := logged }) ∧
    (s.cfg.illegalPolicy = .fatal →
      let t := { s with cpu := { s.cpu with anomalyCount := s.cpu.anomalyCount + 1, fault := true }, out := logged }
      exec (.illegal op) s = .next t ∧ step t = .fault .cpuFaulted)

/-- LDA, LDX, LDY, ADC, SBC, CMP, CPX, CPY, AND, ORA, EOR and BIT change no byte of any memory, no register but their destination (the PC, past the instruction, stays too), no flag but those their rule names, no pending event, no stall; of the PPU at most vblank, w, v, the read buffer and the I/O latch, and of the ports at most the shift registers and the bus latch; and where the operand is immediate or its effective address lies outside 0x2000..0x401F, nothing of the PPU or the ports but the bus latch. -/
def Obligations.ReadInstructionsFrame : Prop :=
  ∀ (o : ReadOperand) (i : Instr) (s t : State),
    (i ∈ [.lda o, .ldx o, .ldy o, .adc o, .sbc o, .cmp o, .cpx o, .cpy o, .and o, .ora o, .eor o] ∨ ∃ m, o = .mem m ∧ i = .bit m) →
    exec i s = .next t →
    SameMemories s t ∧ SameControl s t ∧ t.out = s.out ∧ t.cpu.sp = s.cpu.sp ∧ t.cpu.pc = s.cpu.pc ∧
    t.cpu.dmaStall = s.cpu.dmaStall ∧
    (i ∉ [.lda o, .adc o, .sbc o, .and o, .ora o, .eor o] → t.cpu.a = s.cpu.a) ∧
    (i ≠ .ldx o → t.cpu.x = s.cpu.x) ∧ (i ≠ .ldy o → t.cpu.y = s.cpu.y) ∧
    t.cpu.p.i = s.cpu.p.i ∧ t.cpu.p.d = s.cpu.p.d ∧ t.cpu.p.b = s.cpu.p.b ∧ t.cpu.p.u = s.cpu.p.u ∧
    (i ∉ [.adc o, .sbc o, .cmp o, .cpx o, .cpy o] → t.cpu.p.c = s.cpu.p.c) ∧
    (i ∉ [.adc o, .sbc o] → (∀ m, i ≠ .bit m) → t.cpu.p.v = s.cpu.p.v) ∧
    t.ppu =
      { s.ppu with
        vblank := t.ppu.vblank, w := t.ppu.w, v := t.ppu.v, readBuffer := t.ppu.readBuffer, ioLatch := t.ppu.ioLatch } ∧
    t.io = { s.io with shift1 := t.io.shift1, shift2 := t.io.shift2, cpuBusLatch := t.io.cpuBusLatch } ∧
    ((∀ m, o = .mem m → (resolve m s).1.ea.toNat < 0x2000 ∨ 0x4020 ≤ (resolve m s).1.ea.toNat) →
      t.ppu = s.ppu ∧ t.io = { s.io with cpuBusLatch := t.io.cpuBusLatch })

/-- With ea the effective address of the mode: the RAM cell ea mod 0x800 holds the register when ea is below 0x2000, and every other RAM address reads as before; CHR RAM, CIRAM and palette change only through Data (select 7), OAM only through OAM data (select 4) and 0x4014, the stall only through 0x4014; outside 0x2000..0x401F the PPU and the ports stay; no register, no flag, no pending event, no cartridge byte changes. -/
def Obligations.StoreInstructionsFrame : Prop :=
  ∀ (m : EaMode) (i : Instr) (v : Byte) (s t : State),
    (i, v) ∈ [(.sta m, s.cpu.a), (.stx m, s.cpu.x), (.sty m, s.cpu.y)] → exec i s = .next t →
    let ea := (resolve m s).1.ea
    SameControl s t ∧ t.cart = s.cart ∧
    t.cpu = { s.cpu with cycles := t.cpu.cycles, dmaStall := t.cpu.dmaStall } ∧
    (ea.toNat ≤ 0x1FFF → t.ram.read (ea.toNat % 0x800) = v) ∧
    (∀ a : Addr, a.toNat ≤ 0x1FFF → ¬(ea.toNat ≤ 0x1FFF ∧ a.toNat % 0x800 = ea.toNat % 0x800) →
      t.ram.read (a.toNat % 0x800) = s.ram.read (a.toNat % 0x800)) ∧
    (¬(0x2000 ≤ ea.toNat ∧ ea.toNat ≤ 0x3FFF ∧ ea.toNat % 8 = 7) →
      (∀ k, t.chrRam.read k = s.chrRam.read k) ∧ (∀ k, t.ppu.ciram.read k = s.ppu.ciram.read k) ∧
      (∀ k, t.ppu.palette.read k = s.ppu.palette.read k)) ∧
    (¬(0x2000 ≤ ea.toNat ∧ ea.toNat ≤ 0x3FFF ∧ ea.toNat % 8 = 4) → ea ≠ 0x4014 →
      ∀ k, t.ppu.oam.read k = s.ppu.oam.read k) ∧
    (ea ≠ 0x4014 → t.cpu.dmaStall = s.cpu.dmaStall) ∧
    (ea.toNat < 0x2000 ∨ 0x4020 ≤ ea.toNat → t.ppu = s.ppu ∧ t.chrRam = s.chrRam ∧ t.out = s.out ∧
      t.io = { s.io with cpuBusLatch := t.io.cpuBusLatch })

/-- With ea the effective address of the mode: when ea is below 0x2000 the RAM cell ea mod 0x800 holds the new value of its old byte (and carry), and every other RAM address reads as before; CHR RAM, CIRAM and palette change only through Data, OAM only through OAM data and 0x4014, the stall only through 0x4014; outside 0x2000..0x401F the PPU and the ports stay; A, X, Y, SP and PC stay, and every flag but Z and N, and C for the shifts. -/
def Obligations.ModifyInstructionsFrame : Prop :=
  ∀ (m : EaMode) (i : Instr) (v : Byte) (s t : State),
    let ea := (resolve m s).1.ea
    let old := s.ram.read (ea.toNat % 0x800)
    let c := (BitVec.ofBool s.cpu.p.c).setWidth 8
    (i, v) ∈ [(.inc m, old + 1), (.dec m, old - 1), (.asl (.mem m), old <<< 1), (.lsr (.mem m), old >>> 1),
      (.rol (.mem m), (old <<< 1) ||| c), (.ror (.mem m), (c <<< 7) ||| (old >>> 1))] →
    exec i s = .next t →
    SameControl s t ∧ t.cart = s.cart ∧
    t.cpu =
      { s.cpu with
        cycles := t.cpu.cycles, dmaStall := t.cpu.dmaStall
        p := { s.cpu.p with c := t.cpu.p.c, z := t.cpu.p.z, n := t.cpu.p.n } } ∧
    (i ∈ [.inc m, .dec m] → t.cpu.p.c = s.cpu.p.c) ∧
    (ea.toNat ≤ 0x1FFF → t.ram.read (ea.toNat % 0x800) = v) ∧
    (∀ a : Addr, a.toNat ≤ 0x1FFF → ¬(ea.toNat ≤ 0x1FFF ∧ a.toNat % 0x800 = ea.toNat % 0x800) →
      t.ram.read (a.toNat % 0x800) = s.ram.read (a.toNat % 0x800)) ∧
    (¬(0x2000 ≤ ea.toNat ∧ ea.toNat ≤ 0x3FFF ∧ ea.toNat % 8 = 7) →
      (∀ k, t.chrRam.read k = s.chrRam.read k) ∧ (∀ k, t.ppu.ciram.read k = s.ppu.ciram.read k) ∧
      (∀ k, t.ppu.palette.read k = s.ppu.palette.read k)) ∧
    (¬(0x2000 ≤ ea.toNat ∧ ea.toNat ≤ 0x3FFF ∧ ea.toNat % 8 = 4) → ea ≠ 0x4014 →
      ∀ k, t.ppu.oam.read k = s.ppu.oam.read k) ∧
    (ea ≠ 0x4014 → t.cpu.dmaStall = s.cpu.dmaStall) ∧
    (ea.toNat < 0x2000 ∨ 0x4020 ≤ ea.toNat → t.ppu = s.ppu ∧ t.chrRam = s.chrRam ∧ t.out = s.out ∧
      t.io = { s.io with cpuBusLatch := t.io.cpuBusLatch })

/-- The transfers, INX, INY, DEX, DEY, the accumulator shifts, the flag instructions, NOP, the branches and JMP absolute change nothing outside the CPU; there they change only their destination register, the flags their rule names, the PC for a branch or jump, and the cycle counter. -/
def Obligations.RegisterInstructionsFrame : Prop :=
  ∀ (oo : Byte) (a : Addr) (i : Instr) (s t : State),
    let transfers : List Instr := [.tax, .tay, .txa, .tya, .tsx]
    let counts : List Instr := [.inx, .iny, .dex, .dey]
    let shifts : List Instr := [.asl .acc, .lsr .acc, .rol .acc, .ror .acc]
    let flags : List Instr := [.clc, .cld, .cli, .clv, .sec, .sed, .sei]
    let jumps : List Instr := [.bcc oo, .bcs oo, .beq oo, .bmi oo, .bne oo, .bpl oo, .bvc oo, .bvs oo, .jmp a]
    i ∈ transfers ++ counts ++ shifts ++ flags ++ jumps ++ [.txs, .nop] → exec i s = .next t →
    t = { s with cpu := t.cpu } ∧ SameControl s t ∧ t.cpu.dmaStall = s.cpu.dmaStall ∧
    (i ∉ [.txa, .tya] ++ shifts → t.cpu.a = s.cpu.a) ∧
    (i ∉ [.tax, .tsx, .inx, .dex] → t.cpu.x = s.cpu.x) ∧
    (i ∉ [.tay, .iny, .dey] → t.cpu.y = s.cpu.y) ∧
    (i ≠ .txs → t.cpu.sp = s.cpu.sp) ∧
    (i ∉ jumps → t.cpu.pc = s.cpu.pc) ∧
    (i ∉ transfers ++ counts ++ shifts → t.cpu.p.z = s.cpu.p.z ∧ t.cpu.p.n = s.cpu.p.n) ∧
    (i ∉ [.clc, .sec] ++ shifts → t.cpu.p.c = s.cpu.p.c) ∧
    (i ∉ [.cli, .sei] → t.cpu.p.i = s.cpu.p.i) ∧
    (i ∉ [.cld, .sed] → t.cpu.p.d = s.cpu.p.d) ∧
    (i ≠ .clv → t.cpu.p.v = s.cpu.p.v) ∧
    t.cpu.p.b = s.cpu.p.b ∧ t.cpu.p.u = s.cpu.p.u

/-- PHA and PHP write one byte of page 1, JSR two, BRK three, at 0x100 + SP and below, and every other cell of RAM reads as before; PLA, PLP, RTS, RTI and JMP indirect write no memory; all but JMP indirect leave everything outside the CPU and RAM but the bus latch; X and Y stay, A but for PLA, and every flag but those the rule names. -/
def Obligations.StackInstructionsFrame : Prop :=
  ∀ (a : Addr) (i : Instr) (n : Nat) (s t : State),
    (i, n) ∈ [(.pha, 1), (.php, 1), (.jsr a, 2), (.brk, 3), (.pla, 0), (.plp, 0), (.rts, 0), (.rti, 0), (.jmpInd a, 0)] →
    exec i s = .next t →
    (∀ k, (∀ j, j < n → k ≠ 0x100 + (s.cpu.sp - BitVec.ofNat 8 j).toNat) → t.ram.read k = s.ram.read k) ∧
    (i ≠ .jmpInd a → SameOutsideCpu { s with ram := t.ram } t) ∧
    (i = .jmpInd a → SameMemories s t ∧ t.cpu.sp = s.cpu.sp) ∧
    SameControl s t ∧ t.cpu.dmaStall = s.cpu.dmaStall ∧
    (i ≠ .pla → t.cpu.a = s.cpu.a) ∧ t.cpu.x = s.cpu.x ∧ t.cpu.y = s.cpu.y ∧
    (i ∈ [.pha, .php, .jsr a, .rts, .jmpInd a] → t.cpu.p = s.cpu.p) ∧
    (i = .brk → t.cpu.p = { s.cpu.p with i := true }) ∧
    (i = .pla → t.cpu.p = { s.cpu.p with z := t.cpu.p.z, n := t.cpu.p.n }) ∧
    t.cpu.p.b = s.cpu.p.b ∧ t.cpu.p.u = s.cpu.p.u ∧
    (i ∈ [.pha, .php, .pla, .plp] → t.cpu.pc = s.cpu.pc)

/-- Zero-page indexing wraps in page 0; absolute indexing adds modulo 65536 and crosses when the high byte changes; (zz,X) and (zz),Y read their pointer low byte first from page 0 with wrap; an immediate reads no memory; a read operand makes exactly one bus read at the effective address, with the base count of its mode plus 1 when the page is crossed; stores and read-modify-writes have the fixed counts of the opcode map. -/
def Obligations.AddressingModes : Prop :=
  (∀ (zz : Byte) (base : Addr) (s : State),
    let x := s.cpu.x
    let y := s.cpu.y
    let ptr := fun z : Byte =>
      let lo := memRead (z.setWidth 16) s
      let hi := memRead ((z + 1).setWidth 16) lo.2
      (addrOf hi.1 lo.1, hi.2)
    let byIndex := fun (b : Addr) (k : Byte) =>
      let ea := b + k.setWidth 16
      ({ ea := ea, crossed := decide (b.extractLsb' 8 8 ≠ ea.extractLsb' 8 8) } : Resolved)
    resolve (.zp zz) s = (⟨zz.setWidth 16, false⟩, s) ∧
    resolve (.zpx zz) s = (⟨(zz + x).setWidth 16, false⟩, s) ∧
    resolve (.zpy zz) s = (⟨(zz + y).setWidth 16, false⟩, s) ∧
    resolve (.abs base) s = (⟨base, false⟩, s) ∧
    resolve (.abx base) s = (byIndex base x, s) ∧
    resolve (.aby base) s = (byIndex base y, s) ∧
    resolve (.izx zz) s = (⟨(ptr (zz + x)).1, false⟩, (ptr (zz + x)).2) ∧
    resolve (.izy zz) s = (byIndex (ptr zz).1 y, (ptr zz).2) ∧
    readCycles (.zp zz) = 3 ∧ readCycles (.zpx zz) = 4 ∧ readCycles (.zpy zz) = 4 ∧ readCycles (.abs base) = 4 ∧
    readCycles (.abx base) = 4 ∧ readCycles (.aby base) = 4 ∧ readCycles (.izx zz) = 6 ∧ readCycles (.izy zz) = 5 ∧
    storeCycles (.zp zz) = 3 ∧ storeCycles (.zpx zz) = 4 ∧ storeCycles (.zpy zz) = 4 ∧ storeCycles (.abs base) = 4 ∧
    storeCycles (.abx base) = 5 ∧ storeCycles (.aby base) = 5 ∧ storeCycles (.izx zz) = 6 ∧ storeCycles (.izy zz) = 6 ∧
    modifyCycles (.zp zz) = 5 ∧ modifyCycles (.zpx zz) = 6 ∧ modifyCycles (.abs base) = 6 ∧ modifyCycles (.abx base) = 7 ∧
    readOperand (.imm zz) s = (zz, { s with cpu := { s.cpu with cycles := s.cpu.cycles + 2 } })) ∧
  ∀ (m : EaMode) (s : State),
    let r := resolve m s
    let n := readCycles m + if r.1.crossed then 1 else 0
    let read := memRead r.1.ea { r.2 with cpu := { r.2.cpu with cycles := r.2.cpu.cycles + n } }
    readOperand (.mem m) s = read ∧ readMem m s = read

/-- For addresses a and b below 0x2000: after a bus write of v at a, a bus read at b answers v when a and b agree modulo 0x800, and what it answered before otherwise; and reads and writes of RAM have no side effect but the bus latch. -/
def Obligations.RamMirrors : Prop :=
  ∀ (a b : Addr) (v : Byte) (s : State), a.toNat ≤ 0x1FFF → b.toNat ≤ 0x1FFF →
    (memRead b (memWrite a v s)).1 = (if a.toNat % 0x800 = b.toNat % 0x800 then v else (memRead b s).1) ∧
    (memRead b s).2 = { s with io := { s.io with cpuBusLatch := (memRead b s).1 } } ∧
    memWrite a v s = { s with ram := (memWrite a v s).ram, io := { s.io with cpuBusLatch := v } }

/-- For every page d: the state after the write is the one after 256 bus reads at d * 256 + i, for i rising, each byte stored in OAM at (oam_addr + i) mod 256 (so a page from 0x20 up has the side effects of its reads), with the stall set and the bus latch d; oam_addr, RAM and the rest of the CPU stay. The stall is 513 plus the parity of the cycle counter, which holds the writing instruction's count already (log 12), or, under OAM_DMA_CYCLES = draw, 513 plus a free bit (log 10, counted by log 11). For a page of RAM and for a page of PRG the bytes in OAM are those of the page and nothing else of the PPU changes. -/
def Obligations.OamDmaCopiesThePage : Prop :=
  ∀ (d : Byte) (s : State),
    let t := memWrite 0x4014 d s
    let c := (List.range 256).foldl (fun u i =>
      let r := memRead (addrOf d (BitVec.ofNat 8 i)) u
      { r.2 with ppu := { r.2.ppu with oam := r.2.ppu.oam.write ((r.2.ppu.oamAddr.toNat + i) % 256) r.1 } }) s
    t = { c with cpu := { s.cpu with dmaStall := t.cpu.dmaStall }, draws := t.draws, io := { c.io with cpuBusLatch := d } } ∧
    (s.cfg.dmaCycles = .parity → t.cpu.dmaStall = 513 + s.cpu.cycles % 2 ∧ t.draws = c.draws) ∧
    (s.cfg.dmaCycles = .draw →
      t.cpu.dmaStall = 513 + (Config.dmaExtraCycle c.draws).toNat ∧ t.draws = c.draws + 1) ∧
    t.ppu.oamAddr = s.ppu.oamAddr ∧ t.ram = s.ram ∧
    (d.toNat < 0x20 → t.ppu = { s.ppu with oam := t.ppu.oam } ∧
      ∀ i, i < 256 → t.ppu.oam.read ((s.ppu.oamAddr.toNat + i) % 256) = s.ram.read ((d.toNat * 256 + i) % 0x800)) ∧
    (0x80 ≤ d.toNat → t.ppu = { s.ppu with oam := t.ppu.oam } ∧
      ∀ i, i < 256 → t.ppu.oam.read ((s.ppu.oamAddr.toNat + i) % 256) = s.cart.prgByte (addrOf d (BitVec.ofNat 8 i)))

/-- For an address of 0x2000..0x3FFF by its select a mod 8: Status answers the three flags over five open-bus bits and clears vblank and w; OAM data answers the byte at oam_addr, an attribute byte with bits 4:2 clear, and does not move oam_addr; Data below 0x3F00 answers the old buffer, refills it from v (CHR below 0x2000, then the nametable cell by the mirroring) and increments v; Data in the palette answers the six bits of its entry at once under two open-bus bits and refills the buffer from 0x1000 below; the other five answer open bus. Each sets the I/O latch and the bus latch to its answer and changes nothing else but the count of free values. Open bus is the free value of log 6, and the count of free values is the model's own field (log 11). -/
def Obligations.PpuRegisterReads : Prop :=
  ∀ (a : Addr) (s : State), 0x2000 ≤ a.toNat → a.toNat ≤ 0x3FFF →
    let r := memRead a s
    let ob := Config.openBus s.draws
    let p := s.ppu
    let inc : Vaddr := if p.ctrl.getLsbD 2 then 32 else 1
    let va := (p.v.extractLsb' 0 14).toNat
    let nametable := fun n : Nat =>
      (if s.cart.mirroring = .horizontal then n % 0x1000 / 0x800 else n % 0x800 / 0x400) * 0x400 + n % 0x400
    let entry := fun n : Nat => if n % 4 = 0 then n % 16 else n % 32
    let byte := fun n : Nat =>
      if n ≤ 0x1FFF then (match s.cart.chr with | .rom bytes => bytes.read n | .none => s.chrRam.read n)
      else p.ciram.read (nametable n)
    r.2 = { s with ppu := r.2.ppu, draws := r.2.draws, io := { s.io with cpuBusLatch := r.1 } } ∧
    (a.toNat % 8 ∈ [0, 1, 3, 5, 6] → r.1 = ob ∧ r.2.ppu = { p with ioLatch := r.1 } ∧ r.2.draws = s.draws + 1) ∧
    (a.toNat % 8 = 2 →
      r.1 = BitVec.ofBool p.vblank ++ BitVec.ofBool p.sprite0Hit ++ BitVec.ofBool p.spriteOverflow ++ ob.extractLsb' 0 5 ∧
      r.2.ppu = { p with vblank := false, w := false, ioLatch := r.1 } ∧ r.2.draws = s.draws + 1) ∧
    (a.toNat % 8 = 4 →
      r.1 = (if p.oamAddr.toNat % 4 = 2 then p.oam.read p.oamAddr.toNat &&& 0xE3 else p.oam.read p.oamAddr.toNat) ∧
      r.2.ppu = { p with ioLatch := r.1 } ∧ r.2.draws = s.draws) ∧
    (a.toNat % 8 = 7 → va < 0x3F00 →
      r.1 = p.readBuffer ∧ r.2.ppu = { p with readBuffer := byte va, v := p.v + inc, ioLatch := r.1 } ∧ r.2.draws = s.draws) ∧
    (a.toNat % 8 = 7 → 0x3F00 ≤ va →
      r.1 = ob.extractLsb' 6 2 ++ p.palette.read (entry va) ∧
      r.2.ppu = { p with readBuffer := byte (va - 0x1000), v := p.v + inc, ioLatch := r.1 } ∧ r.2.draws = s.draws + 1)

/-- For an address of 0x2000..0x3FFF by its select: Control stores the byte, copies bits 1:0 to t[11:10], and requests an NMI when NMI_ON_CTRL_ENABLE holds, bit 7 goes from 0 to 1 and vblank is set; Mask stores; Status ignores; OAM address stores; OAM data stores at oam_addr and moves it on; Scroll and Address fill t, x and v by the shared toggle; Data stores the byte at v, in CHR RAM below 0x2000 (CHR ROM ignores it), then in the nametable cell by the mirroring, then, its six low bits, in the palette entry, with every other cell as before, and increments v by 1 or 32. The I/O latch and the bus latch hold the byte, and RAM, the CPU and the cartridge stay. -/
def Obligations.PpuRegisterWrites : Prop :=
  ∀ (a : Addr) (d : Byte) (s : State), 0x2000 ≤ a.toNat → a.toNat ≤ 0x3FFF →
    let t := memWrite a d s
    let p := { s.ppu with ioLatch := d }
    let va := (p.v.extractLsb' 0 14).toNat
    let nametable := fun n : Nat =>
      (if s.cart.mirroring = .horizontal then n % 0x1000 / 0x800 else n % 0x800 / 0x400) * 0x400 + n % 0x400
    let entry := fun n : Nat => if n % 4 = 0 then n % 16 else n % 32
    t = { s with ppu := t.ppu, chrRam := t.chrRam, io := { s.io with cpuBusLatch := d } } ∧
    (a.toNat % 8 = 0 →
      let request := s.cfg.nmiOnCtrlEnable && !p.ctrl.getLsbD 7 && d.getLsbD 7 && p.vblank
      t.ppu =
        { p with
          ctrl := d, nmiRequest := p.nmiRequest || request
          t := p.t.extractLsb' 12 3 ++ d.extractLsb' 0 2 ++ p.t.extractLsb' 0 10 }) ∧
    (a.toNat % 8 = 1 → t.ppu = { p with mask := d }) ∧
    (a.toNat % 8 = 2 → t.ppu = p) ∧
    (a.toNat % 8 = 3 → t.ppu = { p with oamAddr := d }) ∧
    (a.toNat % 8 = 4 → t.ppu = { p with oam := p.oam.write p.oamAddr.toNat d, oamAddr := p.oamAddr + 1 }) ∧
    (a.toNat % 8 = 5 → p.w = false →
      t.ppu = { p with t := p.t.extractLsb' 5 10 ++ d.extractLsb' 3 5, x := d.extractLsb' 0 3, w := true }) ∧
    (a.toNat % 8 = 5 → p.w = true →
      t.ppu = { p with t := d.extractLsb' 0 3 ++ p.t.extractLsb' 10 2 ++ d.extractLsb' 3 5 ++ p.t.extractLsb' 0 5, w := false }) ∧
    (a.toNat % 8 = 6 → p.w = false →
      t.ppu = { p with t := 0#1 ++ d.extractLsb' 0 6 ++ p.t.extractLsb' 0 8, w := true }) ∧
    (a.toNat % 8 = 6 → p.w = true →
      let v := p.t.extractLsb' 8 7 ++ d
      t.ppu = { p with t := v, v := v, w := false }) ∧
    (a.toNat % 8 = 7 →
      t.ppu = { p with v := p.v + (if p.ctrl.getLsbD 2 then 32 else 1), ciram := t.ppu.ciram, palette := t.ppu.palette } ∧
      (∀ k, t.chrRam.read k = if va ≤ 0x1FFF ∧ s.cart.chr = .none ∧ k = va then d else s.chrRam.read k) ∧
      (∀ k, t.ppu.ciram.read k = if 0x2000 ≤ va ∧ va ≤ 0x3EFF ∧ k = nametable va then d else s.ppu.ciram.read k) ∧
      (∀ k, t.ppu.palette.read k = if 0x3F00 ≤ va ∧ k = entry va then d.extractLsb' 0 6 else s.ppu.palette.read k)) ∧
    (a.toNat % 8 ≠ 7 → t.chrRam = s.chrRam)

/-- A write to 0x4016 sets the strobe to bit 0 and, where the strobe was or is set, loads both shift registers with the buttons. A read of 0x4016 or 0x4017 answers three open-bus bits, four zeros and the bit 0 of the port's buttons while strobed, of its shift register otherwise, which then shifts right with a 1 coming in. A write to any other address up to 0x4017 but 0x4014 is one APU event and changes nothing of the block; one to 0x4018..0x401F changes nothing; 0x4015 reads as the APU answers, every other address of the window as open bus. After writes of a byte with bit 0 set and then one with bit 0 clear to 0x4016, read number n (from 0) of a port has in bit 0 bit n of its buttons for n below 8 and 1 from then on. (Open bus, the APU's answer, their count and the record of events are the model's: logs 6, 9, 11 and 15.) -/
def Obligations.ControllerSerialOrder : Prop :=
  (∀ (d : Byte) (s : State),
    let load := s.io.strobe || d.getLsbD 0
    memWrite 0x4016 d s =
      { s with io := { s.io with
        strobe := d.getLsbD 0, shift1 := if load then s.io.buttons1 else s.io.shift1
        shift2 := if load then s.io.buttons2 else s.io.shift2, cpuBusLatch := d } }) ∧
  (∀ s : State,
    let answer := fun b : Bool => (Config.openBus s.draws).extractLsb' 5 3 ++ 0#4 ++ BitVec.ofBool b
    let r1 := answer (if s.io.strobe then s.io.buttons1.getLsbD 0 else s.io.shift1.getLsbD 0)
    let r2 := answer (if s.io.strobe then s.io.buttons2.getLsbD 0 else s.io.shift2.getLsbD 0)
    let shifted := fun b : Byte => if s.io.strobe then b else (b >>> 1) ||| 0x80
    memRead 0x4016 s =
      (r1, { s with draws := s.draws + 1, io := { s.io with shift1 := shifted s.io.shift1, cpuBusLatch := r1 } }) ∧
    memRead 0x4017 s =
      (r2, { s with draws := s.draws + 1, io := { s.io with shift2 := shifted s.io.shift2, cpuBusLatch := r2 } })) ∧
  (∀ (a : Addr) (d : Byte) (s : State), 0x4000 ≤ a.toNat → a.toNat ≤ 0x401F →
    let latched := fun b : Byte => { s with io := { s.io with cpuBusLatch := b } }
    let drawn := fun b : Byte => (b, { latched b with draws := s.draws + 1 })
    (a.toNat ≤ 0x4017 → a ≠ 0x4014 → a ≠ 0x4016 →
      memWrite a d s = { latched d with out := { s.out with apuEvents := (a, d) :: s.out.apuEvents } }) ∧
    (0x4018 ≤ a.toNat → memWrite a d s = latched d) ∧
    (a = 0x4015 → memRead a s = drawn (Config.apuStatus s.draws)) ∧
    (a ≠ 0x4015 → a ≠ 0x4016 → a ≠ 0x4017 → memRead a s = drawn (Config.openBus s.draws))) ∧
  ∀ (d1 d0 : Byte) (n : Nat) (s : State), d1.getLsbD 0 = true → d0.getLsbD 0 = false →
    let strobed := memWrite 0x4016 d0 (memWrite 0x4016 d1 s)
    let answer := fun port : Addr => (memRead port ((fun t => (memRead port t).2)^[n] strobed)).1
    (answer 0x4016).getLsbD 0 = (if n < 8 then s.io.buttons1.getLsbD n else true) ∧
    (answer 0x4017).getLsbD 0 = (if n < 8 then s.io.buttons2.getLsbD n else true) ∧
    (answer 0x4016).extractLsb' 1 4 = 0 ∧ (answer 0x4017).extractLsb' 1 4 = 0

/-- From a position in range, n dots move the position 341 * scanline + dot on by n modulo 89342; within one frame, frame_ready is set exactly when the wrap is passed; so from (0, 0), 89342 dots return to (0, 0) and set it. -/
def Obligations.DotsAdvanceThePosition : Prop :=
  ∀ (e : PpuEnv) (p : Ppu) (n : Nat), p.scanline ≤ 261 → p.dot ≤ 340 →
    let q := ppuRun e n p
    q.scanline ≤ 261 ∧ q.dot ≤ 340 ∧
    341 * q.scanline + q.dot = (341 * p.scanline + p.dot + n) % 89342 ∧
    (n ≤ 89342 → (q.frameReady = true ↔ (p.frameReady = true ∨ 89342 ≤ 341 * p.scanline + p.dot + n)))

/-- At the dot that reaches (241, 1) vblank is set and an NMI is requested when Control bit 7 is set; at the dot that reaches (261, PRE_RENDER_CLEAR_DOT) vblank, sprite-0 hit and overflow are cleared; at every other dot vblank and the NMI request stay, and sprite-0 hit and overflow are not cleared; whatever the Mask bits. -/
def Obligations.VblankAndStatusEvents : Prop :=
  ∀ (e : PpuEnv) (p : Ppu),
    let q := ppuStep e p
    (q.scanline = 241 ∧ q.dot = 1 → q.vblank = true ∧ q.nmiRequest = (p.nmiRequest || p.ctrl.getLsbD 7)) ∧
    (q.scanline = 261 ∧ q.dot = e.cfg.preRenderClearDot → q.vblank = false ∧ q.sprite0Hit = false ∧ q.spriteOverflow = false) ∧
    (¬(q.scanline = 241 ∧ q.dot = 1) → q.nmiRequest = p.nmiRequest) ∧
    (¬(q.scanline = 241 ∧ q.dot = 1) → ¬(q.scanline = 261 ∧ q.dot = e.cfg.preRenderClearDot) → q.vblank = p.vblank) ∧
    (¬(q.scanline = 261 ∧ q.dot = e.cfg.preRenderClearDot) →
      (p.sprite0Hit = true → q.sprite0Hit = true) ∧ (p.spriteOverflow = true → q.spriteOverflow = true))

/-- On a visible line s with rendering enabled, the OAM indices of the latches are exactly the first eight, in rising order, of the sprites whose Y is in range of the line; each latch holds the sprite's X, its attributes and the two pattern bytes of its row (mirrored by bit 7 of the attributes) of its tile (from the table of Control bit 3 for 8 by 8, of tile bit 0 for 8 by 16), the bits of each in reverse where attribute bit 6 is set; overflow stays set, and is set when eight are latched, the last with index L, and, under ideal, a sprite past L is in range, or, under hardware, for some k with L + 1 + k below 64 the OAM byte 4 * (L + 1 + k) + k mod 4 is. On any other line and with rendering disabled there are no latches and overflow stays. Nothing else changes. -/
def Obligations.SpriteEvaluationTakesTheFirstEight : Prop :=
  ∀ (e : PpuEnv) (s : Nat) (p : Ppu),
    let q := evaluateSprites e s p
    let h := if p.ctrl.getLsbD 5 then 16 else 8
    let oam := fun k : Nat => (p.oam.read k).toNat
    let inRange := fun k : Nat => decide (oam k ≤ s ∧ s - oam k < h)
    let chosen := ((List.range 64).filter (fun n => inRange (4 * n))).take 8
    let pattern := fun n : Nat => match e.cart.chr with | .rom bytes => bytes.read n | .none => e.chrRam.read n
    q = { p with lineSprites := q.lineSprites, spriteOverflow := q.spriteOverflow } ∧
    (s ≤ 239 → p.renderingEnabled = true →
      q.lineSprites.map (fun l => l.n) = chosen ∧
      (∀ l ∈ q.lineSprites,
        let attr := p.oam.read (4 * l.n + 2)
        let tile := oam (4 * l.n + 1)
        let row := if attr.getLsbD 7 then h - 1 - (s - oam (4 * l.n)) else s - oam (4 * l.n)
        let addr :=
          if p.ctrl.getLsbD 5 then tile % 2 * 0x1000 + 16 * (tile - tile % 2) + (if 8 ≤ row then row + 8 else row)
          else (if p.ctrl.getLsbD 3 then 0x1000 else 0) + 16 * tile + row
        l.x = p.oam.read (4 * l.n + 3) ∧ l.attr = attr ∧
        ∀ i, i < 8 →
          l.lo.getLsbD i = (pattern addr).getLsbD (if attr.getLsbD 6 then 7 - i else i) ∧
          l.hi.getLsbD i = (pattern (addr + 8)).getLsbD (if attr.getLsbD 6 then 7 - i else i)) ∧
      (q.spriteOverflow = true ↔
        (p.spriteOverflow = true ∨
          ∃ last, chosen.length = 8 ∧ chosen.getLast? = some last ∧
            ((e.cfg.overflowMode = .ideal ∧ ∃ n, last < n ∧ n < 64 ∧ inRange (4 * n) = true) ∨
              (e.cfg.overflowMode = .hardware ∧ ∃ k, last + 1 + k < 64 ∧ inRange (4 * (last + 1 + k) + k % 4) = true))))) ∧
    (s > 239 ∨ p.renderingEnabled = false → q.lineSprites = [] ∧ q.spriteOverflow = p.spriteOverflow)

/-- Drawing pixel x of line s takes the background pixel from the tile, attribute and pattern bytes the line snapshot selects, 0 where the background is off or clipped in the left 8 columns; the sprite pixel from the first latch whose own pixel is opaque, and sprite 0's from its own latch, 0 where sprites are off or clipped there. The cell 256 * s + x becomes the emphasis bits over the palette entry, with greyscale applied: the backdrop where both pixels are 0 or rendering is off, the sprite entry where the sprite pixel is opaque and the background is not or the sprite is in front, the background entry otherwise. Sprite-0 hit is set exactly when it was, or when sprite 0's pixel and the background pixel are both non-zero, rendering is on and x is not 255, whatever the priority and the other sprites. Nothing else changes. -/
def Obligations.PixelCompositionAndSpriteZeroHit : Prop :=
  ∀ (e : PpuEnv) (s x : Nat) (p : Ppu),
    let q := renderPixel e s x p
    let scroll := p.lineScroll
    let fx := p.lineFineX.toNat + x
    let column := (scroll.extractLsb' 0 5).toNat + fx / 8
    let cx := column % 32
    let cy := (scroll.extractLsb' 5 5).toNat
    let page :=
      if e.cart.mirroring = .horizontal then (scroll.extractLsb' 11 1).toNat
      else ((scroll.extractLsb' 10 1).toNat + column / 32) % 2
    let pattern := fun n : Nat => match e.cart.chr with | .rom bytes => bytes.read n | .none => e.chrRam.read n
    let tile := (p.ciram.read (0x400 * page + 32 * cy + cx)).toNat
    let attrs := p.ciram.read (0x400 * page + 0x3C0 + 8 * (cy / 4) + cx / 4)
    let quadrant := 4 * (cy / 2 % 2) + 2 * (cx / 2 % 2)
    let row := (if p.ctrl.getLsbD 4 then 0x1000 else 0) + 16 * tile + (scroll.extractLsb' 12 3).toNat
    let pixel := fun (lo hi : Byte) (c : Nat) => 2 * (hi.getLsbD (7 - c)).toNat + (lo.getLsbD (7 - c)).toNat
    let shown := fun layer left : Nat => p.mask.getLsbD layer = true ∧ (8 ≤ x ∨ p.mask.getLsbD left = true)
    let bg := if shown 3 1 then pixel (pattern row) (pattern (row + 8)) (fx % 8) else 0
    let bgPalette := 2 * (attrs.getLsbD (quadrant + 1)).toNat + (attrs.getLsbD quadrant).toNat
    let own := fun l : SpriteLatch => if l.x.toNat ≤ x ∧ x ≤ l.x.toNat + 7 then pixel l.lo l.hi (x - l.x.toNat) else 0
    let front := if shown 4 2 then p.lineSprites.find? (fun l => own l ≠ 0) else none
    let zero := if shown 4 2 then p.lineSprites.find? (fun l => l.n = 0) else none
    let entry :=
      if p.renderingEnabled = false then 0
      else match front with
        | some l => if bg = 0 ∨ l.attr.getLsbD 5 = false then 0x10 + 4 * (l.attr.extractLsb' 0 2).toNat + own l else 4 * bgPalette + bg
        | none => if bg = 0 then 0 else 4 * bgPalette + bg
    q = { p with fb := q.fb, sprite0Hit := q.sprite0Hit } ∧
    (∀ k, q.fb.read k =
      if k = 256 * s + x then
        p.mask.extractLsb' 5 3 ++ (p.palette.read entry &&& (if p.mask.getLsbD 0 then 0x30#6 else 0x3F#6))
      else p.fb.read k) ∧
    (q.sprite0Hit = true ↔ (p.sprite0Hit = true ∨ (x ≠ 255 ∧ bg ≠ 0 ∧ ∃ l, zero = some l ∧ own l ≠ 0)))

/-- A dot leaves OAM, CIRAM, the palette, Control, Mask, t, fine X, w, the read buffer and the I/O latch. At a visible position it draws the pixel of that position, elsewhere none. On a rendering line (0..239, 261) with rendering enabled, coarse X with its nametable bit counts on by 1 modulo 64 at the dots 8, 16, ..., 256, 328 and 336 and is copied from t at dot 257; fine Y, coarse Y and its nametable bit count on at dot 256 (from 29 to 0 into the other nametable, from 31 to 0) and are copied from t at the dots 280..304 of line 261; oam_addr becomes 0 at dot 257; at every other dot, on every other line and with rendering disabled, v and oam_addr stay. The sprite list is evaluated at dot 257; the snapshot is v and fine X at dot 320 of the lines 0..238 and 261; the copy of the frame is made at the wrap; all three stay otherwise. -/
def Obligations.WhatADotChanges : Prop :=
  ∀ (e : PpuEnv) (p : Ppu),
    let q := ppuStep e p
    let pixel := renderPixel e q.scanline (q.dot - 1) p
    let visible := q.scanline ≤ 239 ∧ 1 ≤ q.dot ∧ q.dot ≤ 256
    let rendering := p.renderingEnabled = true ∧ (q.scanline ≤ 239 ∨ q.scanline = 261)
    let wrap := p.scanline = 261 ∧ p.dot = 340
    let snapshot := q.dot = 320 ∧ (q.scanline ≤ 238 ∨ q.scanline = 261)
    let across := fun v : Vaddr => 32 * (v.extractLsb' 10 1).toNat + (v.extractLsb' 0 5).toNat
    let fineY := fun v : Vaddr => (v.extractLsb' 12 3).toNat
    let coarseY := fun v : Vaddr => (v.extractLsb' 5 5).toNat
    let half := fun v : Vaddr => (v.extractLsb' 11 1).toNat
    q.oam = p.oam ∧ q.ciram = p.ciram ∧ q.palette = p.palette ∧ q.ctrl = p.ctrl ∧ q.mask = p.mask ∧ q.t = p.t ∧ q.x = p.x ∧
    q.w = p.w ∧ q.readBuffer = p.readBuffer ∧ q.ioLatch = p.ioLatch ∧
    (visible → q.fb = pixel.fb ∧ q.sprite0Hit = pixel.sprite0Hit) ∧ (¬visible → q.fb = p.fb) ∧
    (¬rendering → q.v = p.v ∧ q.oamAddr = p.oamAddr) ∧
    (rendering →
      q.oamAddr = (if q.dot = 257 then 0 else p.oamAddr) ∧
      across q.v =
        (if (1 ≤ q.dot ∧ q.dot ≤ 256 ∧ q.dot % 8 = 0) ∨ q.dot = 328 ∨ q.dot = 336 then (across p.v + 1) % 64
        else if q.dot = 257 then across p.t else across p.v) ∧
      (q.dot = 256 →
        fineY q.v = (fineY p.v + 1) % 8 ∧
        coarseY q.v =
          (if fineY p.v < 7 then coarseY p.v else if coarseY p.v = 29 ∨ coarseY p.v = 31 then 0 else coarseY p.v + 1) ∧
        half q.v = (if fineY p.v = 7 ∧ coarseY p.v = 29 then 1 - half p.v else half p.v)) ∧
      (q.dot ≠ 256 →
        let source := if q.scanline = 261 ∧ 280 ≤ q.dot ∧ q.dot ≤ 304 then p.t else p.v
        fineY q.v = fineY source ∧ coarseY q.v = coarseY source ∧ half q.v = half source)) ∧
    q.lineSprites = (if q.dot = 257 then (evaluateSprites e q.scanline p).lineSprites else p.lineSprites) ∧
    (snapshot → q.lineScroll = q.v ∧ q.lineFineX = p.x) ∧
    (¬snapshot → q.lineScroll = p.lineScroll ∧ q.lineFineX = p.lineFineX) ∧
    q.fbOut = (if wrap then p.fb else p.fbOut)
end

