-- ==== Sys2Proof/Laws/Bits.lean ====
section
/-! SUPPORT. `putBits` bit by bit, the fields of a word after it, and what the PPU's scroll and address writes and its scroll
counters do to the fields of `v` and `t` (10_state.md R44). -/

namespace Sys2Proof.Machine

/-- One bit after a field is written: the field's inside its range, the old one outside. -/
theorem putBits_getLsbD {n k : Nat} (v : BitVec n) (lo : Nat) (x : BitVec k) (i : Nat) (hi : i < n) :
    (putBits v lo x).getLsbD i = if lo ≤ i ∧ i < lo + k then x.getLsbD (i - lo) else v.getLsbD i := by
  simp only [putBits, BitVec.getLsbD_or, BitVec.getLsbD_and, BitVec.getLsbD_not, BitVec.getLsbD_shiftLeft, BitVec.getLsbD_setWidth,
    BitVec.getLsbD_allOnes, hi, decide_true, Bool.true_and]
  by_cases h1 : i < lo
  · simp [h1, show ¬lo ≤ i by omega]
  · by_cases h2 : i < lo + k
    · simp [h1, h2, show lo ≤ i by omega, show i - lo < k by omega, show i - lo < n by omega]
    · simp [h1, h2, show ¬(i - lo < k) by omega, BitVec.getLsbD_of_ge x (i - lo) (by omega)]

/-- A field inside the one that was written. -/
theorem extract_putBits_sub {n k : Nat} (v : BitVec n) (lo : Nat) (x : BitVec k) (a len : Nat) (h1 : lo ≤ a) (h2 : a + len ≤ lo + k)
    (h3 : lo + k ≤ n) : (putBits v lo x).extractLsb' a len = x.extractLsb' (a - lo) len := by
  apply BitVec.eq_of_getLsbD_eq
  intro i hi
  simp only [BitVec.getLsbD_extractLsb', hi, decide_true, Bool.true_and]
  rw [putBits_getLsbD _ _ _ _ (by omega), if_pos ⟨by omega, by omega⟩, show a + i - lo = a - lo + i by omega]

/-- The field that was written. -/
theorem extract_putBits_same {n k : Nat} (v : BitVec n) (lo : Nat) (x : BitVec k) (h : lo + k ≤ n) :
    (putBits v lo x).extractLsb' lo k = x := by
  rw [extract_putBits_sub v lo x lo k (Nat.le_refl _) (Nat.le_refl _) h, Nat.sub_self]
  simp

/-- A field apart from the one that was written. -/
theorem extract_putBits_other {n k : Nat} (v : BitVec n) (lo : Nat) (x : BitVec k) (a len : Nat)
    (h : a + len ≤ lo ∨ lo + k ≤ a) (hn : a + len ≤ n) : (putBits v lo x).extractLsb' a len = v.extractLsb' a len := by
  apply BitVec.eq_of_getLsbD_eq
  intro i hi
  simp only [BitVec.getLsbD_extractLsb', hi, decide_true, Bool.true_and]
  rw [putBits_getLsbD _ _ _ _ (by omega), if_neg (by omega)]

/-! ### Concatenations, and the fields the Control, Scroll and Address writes fill (50_ppu_registers.md R301, R311, R312) -/

theorem getLsbD_append2 {n m : Nat} (a : BitVec n) (b : BitVec m) (i : Nat) :
    (a ++ b).getLsbD i = if i < m then b.getLsbD i else a.getLsbD (i - m) := by
  rw [BitVec.getLsbD_append]

theorem getLsbD_append3 {n m k : Nat} (a : BitVec n) (b : BitVec m) (c : BitVec k) (i : Nat) :
    (a ++ b ++ c).getLsbD i = if i < k then c.getLsbD i else if i - k < m then b.getLsbD (i - k) else a.getLsbD (i - k - m) := by
  rw [getLsbD_append2, getLsbD_append2]

theorem getLsbD_append4 {n m k l : Nat} (a : BitVec n) (b : BitVec m) (c : BitVec k) (d : BitVec l) (i : Nat) :
    (a ++ b ++ c ++ d).getLsbD i =
      if i < l then d.getLsbD i else if i - l < k then c.getLsbD (i - l)
      else if i - l - k < m then b.getLsbD (i - l - k) else a.getLsbD (i - l - k - m) := by
  rw [getLsbD_append2, getLsbD_append3]

/-- `t[11:10] <- d[1:0]` (50_ppu_registers.md R301). -/
theorem putBits_nametable (t : Vaddr) (d : Byte) : putBits t 10 (d.extractLsb' 0 2) =
    (t.extractLsb' 12 3 ++ d.extractLsb' 0 2 ++ t.extractLsb' 0 10 : BitVec 15) := by
  apply BitVec.eq_of_getLsbD_eq
  intro i hi
  refine Eq.trans ?_ ((getLsbD_append3 _ _ _) i).symm
  rw [putBits_getLsbD _ _ _ _ hi]
  interval_cases i <;> simp

/-- `t[4:0] <- d[7:3]` (R311). -/
theorem putBits_coarseX (t : Vaddr) (d : Byte) : putBits t 0 (d.extractLsb' 3 5) =
    (t.extractLsb' 5 10 ++ d.extractLsb' 3 5 : BitVec 15) := by
  apply BitVec.eq_of_getLsbD_eq
  intro i hi
  refine Eq.trans ?_ ((getLsbD_append2 _ _) i).symm
  rw [putBits_getLsbD _ _ _ _ hi]
  interval_cases i <;> simp

/-- `t[14:12] <- d[2:0]; t[9:5] <- d[7:3]` (R311). -/
theorem putBits_scrollY (t : Vaddr) (d : Byte) : putBits (putBits t 12 (d.extractLsb' 0 3)) 5 (d.extractLsb' 3 5) =
    (d.extractLsb' 0 3 ++ t.extractLsb' 10 2 ++ d.extractLsb' 3 5 ++ t.extractLsb' 0 5 : BitVec 15) := by
  apply BitVec.eq_of_getLsbD_eq
  intro i hi
  refine Eq.trans ?_ ((getLsbD_append4 _ _ _ _) i).symm
  rw [putBits_getLsbD _ _ _ _ hi, putBits_getLsbD _ _ _ _ hi]
  interval_cases i <;> simp

/-- `t[13:8] <- d[5:0]; t[14] <- 0` (R312). -/
theorem putBits_addressHigh (t : Vaddr) (d : Byte) : putBits (putBits t 8 (d.extractLsb' 0 6)) 14 (0 : BitVec 1) =
    (0#1 ++ d.extractLsb' 0 6 ++ t.extractLsb' 0 8 : BitVec 15) := by
  apply BitVec.eq_of_getLsbD_eq
  intro i hi
  refine Eq.trans ?_ ((getLsbD_append3 _ _ _) i).symm
  rw [putBits_getLsbD _ _ _ _ hi, putBits_getLsbD _ _ _ _ hi]
  interval_cases i <;> simp

/-- `t[7:0] <- d` (R312). -/
theorem putBits_addressLow (t : Vaddr) (d : Byte) : putBits t 0 d = (t.extractLsb' 8 7 ++ d : BitVec 15) := by
  apply BitVec.eq_of_getLsbD_eq
  intro i hi
  refine Eq.trans ?_ ((getLsbD_append2 _ _) i).symm
  rw [putBits_getLsbD _ _ _ _ hi]
  interval_cases i <;> simp

end Sys2Proof.Machine
end

