-- ==== Sys2Proof/Laws/Memory.lean ====
section
/-! SUPPORT. The laws of a memory: a read after a write, the canonical form, and that canonical memories that read alike are
equal. -/

namespace Sys2Proof

variable {w : Nat}

@[simp] theorem Store.read_nil (a : Nat) : Store.read ([] : Store w) a = 0 := rfl

theorem Store.read_erase (m : Store w) (a b : Nat) : (m.erase a).read b = if b = a then 0 else m.read b := by
  induction m with
  | nil => simp [Store.erase]
  | cons c rest ih =>
    obtain ⟨k, v⟩ := c
    by_cases hak : a = k <;> by_cases hbk : b = k <;> simp_all [Store.erase, Store.read]
    intro h
    exact absurd h.symm hak

theorem Store.read_insert (m : Store w) (a b : Nat) (v : BitVec w) :
    (m.insert a v).read b = if b = a then v else m.read b := by
  induction m with
  | nil => simp [Store.insert, Store.read]
  | cons c rest ih =>
    obtain ⟨k, u⟩ := c
    simp only [Store.insert]
    split
    · simp [Store.read]
    · split
      · next h => subst h; simp only [Store.read]; split <;> rfl
      · next h =>
        simp only [Store.read, ih]
        by_cases hbk : b = k
        · subst hbk; simp [Ne.symm h]
        · simp [hbk]

/-- Reading a memory after a write: the written value at the written cell, and every other cell as it was. -/
theorem Store.read_write (m : Store w) (a b : Nat) (v : BitVec w) :
    (m.write a v).read b = if b = a then v else m.read b := by
  unfold Store.write
  split
  · next h => rw [Store.read_erase, h]
  · exact Store.read_insert m a b v

@[simp] theorem Store.read_write_same (m : Store w) (a : Nat) (v : BitVec w) : (m.write a v).read a = v := by
  simp [Store.read_write]

theorem Store.read_write_other (m : Store w) {a b : Nat} (v : BitVec w) (h : b ≠ a) : (m.write a v).read b = m.read b := by
  simp [Store.read_write, h]

theorem Store.erase_sublist (m : Store w) (a : Nat) : (m.erase a).Sublist m := by
  induction m with
  | nil => exact .slnil
  | cons c rest ih =>
    simp only [Store.erase]
    split
    · exact ih.cons _
    · exact ih.cons_cons _

theorem Store.mem_insert {m : Store w} {a : Nat} {v : BitVec w} {c : Nat × BitVec w} (h : c ∈ m.insert a v) :
    c = (a, v) ∨ c ∈ m := by
  induction m with
  | nil => simp_all [Store.insert]
  | cons d rest ih =>
    simp only [Store.insert] at h
    split at h
    · simpa using h
    · split at h
      · simp_all only [List.mem_cons]; tauto
      · simp only [List.mem_cons] at h ⊢; tauto

theorem Store.pairwise_insert {m : Store w} (h : m.Pairwise (fun c d => c.1 < d.1)) (a : Nat) (v : BitVec w) :
    (m.insert a v).Pairwise (fun c d => c.1 < d.1) := by
  induction m with
  | nil => simp [Store.insert]
  | cons d rest ih =>
    obtain ⟨k, u⟩ := d
    rw [List.pairwise_cons] at h
    simp only [Store.insert]
    split
    · next hlt =>
      refine List.pairwise_cons.2 ⟨fun e he => ?_, List.pairwise_cons.2 h⟩
      obtain rfl | he := List.mem_cons.1 he
      · exact hlt
      · exact hlt.trans (h.1 e he)
    · split
      · next heq => subst heq; exact List.pairwise_cons.2 h
      · refine List.pairwise_cons.2 ⟨fun e he => ?_, ih h.2⟩
        obtain rfl | he := Store.mem_insert he
        · simp only; omega
        · exact h.1 e he

/-- A write keeps the canonical form. -/
theorem Store.wf_write {m : Store w} (h : m.wf) (a : Nat) (v : BitVec w) : (m.write a v).wf := by
  unfold Store.write
  split
  · exact ⟨h.1.sublist (m.erase_sublist a), fun c hc => h.2 c ((m.erase_sublist a).subset hc)⟩
  · next hv =>
    refine ⟨Store.pairwise_insert h.1 a v, fun c hc => ?_⟩
    obtain rfl | hc := Store.mem_insert hc
    · exact hv
    · exact h.2 c hc

/-- A write inside the size keeps the canonical form and the size. -/
theorem Store.fits_write {m : Store w} {size : Nat} (h : m.fits size) {a : Nat} (ha : a < size) (v : BitVec w) :
    (m.write a v).fits size := by
  refine ⟨Store.wf_write h.1 a v, fun c hc => ?_⟩
  unfold Store.write at hc
  split at hc
  · exact h.2 c ((m.erase_sublist a).subset hc)
  · obtain rfl | hc := Store.mem_insert hc
    · exact ha
    · exact h.2 c hc

theorem Store.fits_nil (size : Nat) : Store.fits ([] : Store w) size := by simp [Store.fits, Store.wf]

theorem Store.read_of_lt {m : Store w} {a : Nat} (h : ∀ c ∈ m, a < c.1) : m.read a = 0 := by
  induction m with
  | nil => rfl
  | cons d rest ih =>
    obtain ⟨k, u⟩ := d
    have := h (k, u) (by simp)
    simp only at this
    rw [Store.read, if_neg (by omega), ih (fun c hc => h c (List.mem_cons_of_mem _ hc))]

/-- Two canonical memories that read alike everywhere are the same list. -/
theorem Store.ext_of_wf {m n : Store w} (hm : m.wf) (hn : n.wf) (h : ∀ a, m.read a = n.read a) : m = n := by
  induction m generalizing n with
  | nil =>
    cases n with
    | nil => rfl
    | cons d rest =>
      have := h d.1
      simp only [Store.read, if_true] at this
      exact absurd this.symm (hn.2 d (by simp))
  | cons c rest ih =>
    obtain ⟨k, u⟩ := c
    cases n with
    | nil =>
      have := h k
      simp only [Store.read, if_true] at this
      exact absurd this (hm.2 (k, u) (by simp))
    | cons d rest' =>
      obtain ⟨k', u'⟩ := d
      have hu := hm.2 (k, u) (by simp)
      have hu' := hn.2 (k', u') (by simp)
      have pm := List.pairwise_cons.1 hm.1
      have pn := List.pairwise_cons.1 hn.1
      have hk : k = k' := by
        rcases Nat.lt_trichotomy k k' with hlt | heq | hlt
        · have := h k
          rw [Store.read, if_pos rfl, Store.read_of_lt] at this
          · exact absurd this hu
          · intro e he
            obtain rfl | he := List.mem_cons.1 he
            · exact hlt
            · exact hlt.trans (pn.1 e he)
        · exact heq
        · have := h k'
          rw [Store.read_of_lt (m := (k, u) :: rest), Store.read, if_pos rfl] at this
          · exact absurd this.symm hu'
          · intro e he
            obtain rfl | he := List.mem_cons.1 he
            · exact hlt
            · exact hlt.trans (pm.1 e he)
      subst hk
      have huu : u = u' := by simpa [Store.read] using h k
      subst huu
      have := ih ⟨pm.2, fun c hc => hm.2 c (by simp [hc])⟩ ⟨pn.2, fun c hc => hn.2 c (by simp [hc])⟩ (fun a => by
        by_cases ha : a = k
        · subst ha; rw [Store.read_of_lt pm.1, Store.read_of_lt pn.1]
        · simpa [Store.read, ha] using h a)
      rw [this]

theorem Memory.ofBytes_bounds {bytes : List Byte} {a : Nat} {c : Nat × Byte} (h : c ∈ Memory.ofBytes a bytes) :
    a ≤ c.1 ∧ c.1 < a + bytes.length := by
  induction bytes generalizing a with
  | nil => simp [Memory.ofBytes] at h
  | cons b rest ih =>
    simp only [Memory.ofBytes] at h
    split at h
    · have := ih h; simp; omega
    · obtain rfl | h := List.mem_cons.1 h
      · simp
      · have := ih h; simp; omega

/-- A list of bytes is laid out in canonical form, within its length. -/
theorem Memory.fits_ofBytes (bytes : List Byte) (a : Nat) : Store.fits (Memory.ofBytes a bytes) (a + bytes.length) := by
  refine ⟨?_, fun c hc => (Memory.ofBytes_bounds hc).2⟩
  induction bytes generalizing a with
  | nil => simp [Memory.ofBytes, Store.wf]
  | cons b rest ih =>
    simp only [Memory.ofBytes]
    split
    · exact ih (a + 1)
    · next hb =>
      refine ⟨List.pairwise_cons.2 ⟨fun d hd => (Memory.ofBytes_bounds hd).1, (ih (a + 1)).1⟩, fun c hc => ?_⟩
      obtain rfl | hc := List.mem_cons.1 hc
      · exact hb
      · exact (ih (a + 1)).2 c hc

/-- Byte `k` of a list of bytes is in cell `a + k`. -/
theorem Memory.read_ofBytes (bytes : List Byte) (a k : Nat) : (Memory.ofBytes a bytes).read (a + k) = bytes.getD k 0 := by
  induction bytes generalizing a k with
  | nil => simp [Memory.ofBytes]
  | cons b rest ih =>
    cases k with
    | zero =>
      simp only [Memory.ofBytes]
      split
      · next hb =>
        rw [Store.read_of_lt (fun c hc => by have := Memory.ofBytes_bounds hc; omega)]
        simp [hb]
      · simp [Store.read]
    | succ k =>
      have := ih (a + 1) k
      rw [show a + 1 + k = a + (k + 1) by omega] at this
      simp only [Memory.ofBytes]
      split
      · simpa using this
      · simpa [Store.read] using this

end Sys2Proof
end

