-- ==== Sys2Proof/Laws/State.lean ====
section
/-! SUPPORT. What each update of the state leaves in each field: one lemma per update and field. -/

namespace Sys2Proof.Machine

@[simp] theorem State.setCpu_cpu (s : State) (c : Cpu) : (s.setCpu c).cpu = c := rfl
@[simp] theorem State.setCpu_ppu (s : State) (c : Cpu) : (s.setCpu c).ppu = s.ppu := rfl
@[simp] theorem State.setCpu_ram (s : State) (c : Cpu) : (s.setCpu c).ram = s.ram := rfl
@[simp] theorem State.setCpu_chrRam (s : State) (c : Cpu) : (s.setCpu c).chrRam = s.chrRam := rfl
@[simp] theorem State.setCpu_io (s : State) (c : Cpu) : (s.setCpu c).io = s.io := rfl
@[simp] theorem State.setCpu_frames (s : State) (c : Cpu) : (s.setCpu c).frames = s.frames := rfl
@[simp] theorem State.setCpu_cfg (s : State) (c : Cpu) : (s.setCpu c).cfg = s.cfg := rfl
@[simp] theorem State.setCpu_cart (s : State) (c : Cpu) : (s.setCpu c).cart = s.cart := rfl
@[simp] theorem State.setCpu_draws (s : State) (c : Cpu) : (s.setCpu c).draws = s.draws := rfl
@[simp] theorem State.setCpu_out (s : State) (c : Cpu) : (s.setCpu c).out = s.out := rfl

@[simp] theorem State.setPpu_cpu (s : State) (p : Ppu) : (s.setPpu p).cpu = s.cpu := rfl
@[simp] theorem State.setPpu_ppu (s : State) (p : Ppu) : (s.setPpu p).ppu = p := rfl
@[simp] theorem State.setPpu_ram (s : State) (p : Ppu) : (s.setPpu p).ram = s.ram := rfl
@[simp] theorem State.setPpu_chrRam (s : State) (p : Ppu) : (s.setPpu p).chrRam = s.chrRam := rfl
@[simp] theorem State.setPpu_io (s : State) (p : Ppu) : (s.setPpu p).io = s.io := rfl
@[simp] theorem State.setPpu_frames (s : State) (p : Ppu) : (s.setPpu p).frames = s.frames := rfl
@[simp] theorem State.setPpu_cfg (s : State) (p : Ppu) : (s.setPpu p).cfg = s.cfg := rfl
@[simp] theorem State.setPpu_cart (s : State) (p : Ppu) : (s.setPpu p).cart = s.cart := rfl
@[simp] theorem State.setPpu_draws (s : State) (p : Ppu) : (s.setPpu p).draws = s.draws := rfl
@[simp] theorem State.setPpu_out (s : State) (p : Ppu) : (s.setPpu p).out = s.out := rfl

@[simp] theorem State.setRam_cpu (s : State) (m : Memory) : (s.setRam m).cpu = s.cpu := rfl
@[simp] theorem State.setRam_ppu (s : State) (m : Memory) : (s.setRam m).ppu = s.ppu := rfl
@[simp] theorem State.setRam_ram (s : State) (m : Memory) : (s.setRam m).ram = m := rfl
@[simp] theorem State.setRam_chrRam (s : State) (m : Memory) : (s.setRam m).chrRam = s.chrRam := rfl
@[simp] theorem State.setRam_io (s : State) (m : Memory) : (s.setRam m).io = s.io := rfl
@[simp] theorem State.setRam_frames (s : State) (m : Memory) : (s.setRam m).frames = s.frames := rfl
@[simp] theorem State.setRam_cfg (s : State) (m : Memory) : (s.setRam m).cfg = s.cfg := rfl
@[simp] theorem State.setRam_cart (s : State) (m : Memory) : (s.setRam m).cart = s.cart := rfl
@[simp] theorem State.setRam_draws (s : State) (m : Memory) : (s.setRam m).draws = s.draws := rfl
@[simp] theorem State.setRam_out (s : State) (m : Memory) : (s.setRam m).out = s.out := rfl

@[simp] theorem State.setChrRam_cpu (s : State) (m : Memory) : (s.setChrRam m).cpu = s.cpu := rfl
@[simp] theorem State.setChrRam_ppu (s : State) (m : Memory) : (s.setChrRam m).ppu = s.ppu := rfl
@[simp] theorem State.setChrRam_ram (s : State) (m : Memory) : (s.setChrRam m).ram = s.ram := rfl
@[simp] theorem State.setChrRam_chrRam (s : State) (m : Memory) : (s.setChrRam m).chrRam = m := rfl
@[simp] theorem State.setChrRam_io (s : State) (m : Memory) : (s.setChrRam m).io = s.io := rfl
@[simp] theorem State.setChrRam_frames (s : State) (m : Memory) : (s.setChrRam m).frames = s.frames := rfl
@[simp] theorem State.setChrRam_cfg (s : State) (m : Memory) : (s.setChrRam m).cfg = s.cfg := rfl
@[simp] theorem State.setChrRam_cart (s : State) (m : Memory) : (s.setChrRam m).cart = s.cart := rfl
@[simp] theorem State.setChrRam_draws (s : State) (m : Memory) : (s.setChrRam m).draws = s.draws := rfl
@[simp] theorem State.setChrRam_out (s : State) (m : Memory) : (s.setChrRam m).out = s.out := rfl

@[simp] theorem State.setIo_cpu (s : State) (i : Io) : (s.setIo i).cpu = s.cpu := rfl
@[simp] theorem State.setIo_ppu (s : State) (i : Io) : (s.setIo i).ppu = s.ppu := rfl
@[simp] theorem State.setIo_ram (s : State) (i : Io) : (s.setIo i).ram = s.ram := rfl
@[simp] theorem State.setIo_chrRam (s : State) (i : Io) : (s.setIo i).chrRam = s.chrRam := rfl
@[simp] theorem State.setIo_io (s : State) (i : Io) : (s.setIo i).io = i := rfl
@[simp] theorem State.setIo_frames (s : State) (i : Io) : (s.setIo i).frames = s.frames := rfl
@[simp] theorem State.setIo_cfg (s : State) (i : Io) : (s.setIo i).cfg = s.cfg := rfl
@[simp] theorem State.setIo_cart (s : State) (i : Io) : (s.setIo i).cart = s.cart := rfl
@[simp] theorem State.setIo_draws (s : State) (i : Io) : (s.setIo i).draws = s.draws := rfl
@[simp] theorem State.setIo_out (s : State) (i : Io) : (s.setIo i).out = s.out := rfl

@[simp] theorem State.setOut_cpu (s : State) (o : Outputs) : (s.setOut o).cpu = s.cpu := rfl
@[simp] theorem State.setOut_ppu (s : State) (o : Outputs) : (s.setOut o).ppu = s.ppu := rfl
@[simp] theorem State.setOut_ram (s : State) (o : Outputs) : (s.setOut o).ram = s.ram := rfl
@[simp] theorem State.setOut_chrRam (s : State) (o : Outputs) : (s.setOut o).chrRam = s.chrRam := rfl
@[simp] theorem State.setOut_io (s : State) (o : Outputs) : (s.setOut o).io = s.io := rfl
@[simp] theorem State.setOut_frames (s : State) (o : Outputs) : (s.setOut o).frames = s.frames := rfl
@[simp] theorem State.setOut_cfg (s : State) (o : Outputs) : (s.setOut o).cfg = s.cfg := rfl
@[simp] theorem State.setOut_cart (s : State) (o : Outputs) : (s.setOut o).cart = s.cart := rfl
@[simp] theorem State.setOut_draws (s : State) (o : Outputs) : (s.setOut o).draws = s.draws := rfl
@[simp] theorem State.setOut_out (s : State) (o : Outputs) : (s.setOut o).out = o := rfl

@[simp] theorem State.setA_cpu_a (s : State) (v : Byte) : (s.setA v).cpu.a = v := rfl
@[simp] theorem State.setA_cpu_x (s : State) (v : Byte) : (s.setA v).cpu.x = s.cpu.x := rfl
@[simp] theorem State.setA_cpu_y (s : State) (v : Byte) : (s.setA v).cpu.y = s.cpu.y := rfl
@[simp] theorem State.setA_cpu_sp (s : State) (v : Byte) : (s.setA v).cpu.sp = s.cpu.sp := rfl
@[simp] theorem State.setA_cpu_pc (s : State) (v : Byte) : (s.setA v).cpu.pc = s.cpu.pc := rfl
@[simp] theorem State.setA_cpu_p (s : State) (v : Byte) : (s.setA v).cpu.p = s.cpu.p := rfl
@[simp] theorem State.setA_cpu_cycles (s : State) (v : Byte) : (s.setA v).cpu.cycles = s.cpu.cycles := rfl
@[simp] theorem State.setA_cpu_nmiPending (s : State) (v : Byte) : (s.setA v).cpu.nmiPending = s.cpu.nmiPending := rfl
@[simp] theorem State.setA_cpu_irqPending (s : State) (v : Byte) : (s.setA v).cpu.irqPending = s.cpu.irqPending := rfl
@[simp] theorem State.setA_cpu_resetPending (s : State) (v : Byte) : (s.setA v).cpu.resetPending = s.cpu.resetPending := rfl
@[simp] theorem State.setA_cpu_anomalyCount (s : State) (v : Byte) : (s.setA v).cpu.anomalyCount = s.cpu.anomalyCount := rfl
@[simp] theorem State.setA_cpu_fault (s : State) (v : Byte) : (s.setA v).cpu.fault = s.cpu.fault := rfl
@[simp] theorem State.setA_cpu_dmaStall (s : State) (v : Byte) : (s.setA v).cpu.dmaStall = s.cpu.dmaStall := rfl
@[simp] theorem State.setA_ppu (s : State) (v : Byte) : (s.setA v).ppu = s.ppu := rfl
@[simp] theorem State.setA_ram (s : State) (v : Byte) : (s.setA v).ram = s.ram := rfl
@[simp] theorem State.setA_chrRam (s : State) (v : Byte) : (s.setA v).chrRam = s.chrRam := rfl
@[simp] theorem State.setA_io (s : State) (v : Byte) : (s.setA v).io = s.io := rfl
@[simp] theorem State.setA_frames (s : State) (v : Byte) : (s.setA v).frames = s.frames := rfl
@[simp] theorem State.setA_cfg (s : State) (v : Byte) : (s.setA v).cfg = s.cfg := rfl
@[simp] theorem State.setA_cart (s : State) (v : Byte) : (s.setA v).cart = s.cart := rfl
@[simp] theorem State.setA_draws (s : State) (v : Byte) : (s.setA v).draws = s.draws := rfl
@[simp] theorem State.setA_out (s : State) (v : Byte) : (s.setA v).out = s.out := rfl

@[simp] theorem State.setX_cpu_a (s : State) (v : Byte) : (s.setX v).cpu.a = s.cpu.a := rfl
@[simp] theorem State.setX_cpu_x (s : State) (v : Byte) : (s.setX v).cpu.x = v := rfl
@[simp] theorem State.setX_cpu_y (s : State) (v : Byte) : (s.setX v).cpu.y = s.cpu.y := rfl
@[simp] theorem State.setX_cpu_sp (s : State) (v : Byte) : (s.setX v).cpu.sp = s.cpu.sp := rfl
@[simp] theorem State.setX_cpu_pc (s : State) (v : Byte) : (s.setX v).cpu.pc = s.cpu.pc := rfl
@[simp] theorem State.setX_cpu_p (s : State) (v : Byte) : (s.setX v).cpu.p = s.cpu.p := rfl
@[simp] theorem State.setX_cpu_cycles (s : State) (v : Byte) : (s.setX v).cpu.cycles = s.cpu.cycles := rfl
@[simp] theorem State.setX_cpu_nmiPending (s : State) (v : Byte) : (s.setX v).cpu.nmiPending = s.cpu.nmiPending := rfl
@[simp] theorem State.setX_cpu_irqPending (s : State) (v : Byte) : (s.setX v).cpu.irqPending = s.cpu.irqPending := rfl
@[simp] theorem State.setX_cpu_resetPending (s : State) (v : Byte) : (s.setX v).cpu.resetPending = s.cpu.resetPending := rfl
@[simp] theorem State.setX_cpu_anomalyCount (s : State) (v : Byte) : (s.setX v).cpu.anomalyCount = s.cpu.anomalyCount := rfl
@[simp] theorem State.setX_cpu_fault (s : State) (v : Byte) : (s.setX v).cpu.fault = s.cpu.fault := rfl
@[simp] theorem State.setX_cpu_dmaStall (s : State) (v : Byte) : (s.setX v).cpu.dmaStall = s.cpu.dmaStall := rfl
@[simp] theorem State.setX_ppu (s : State) (v : Byte) : (s.setX v).ppu = s.ppu := rfl
@[simp] theorem State.setX_ram (s : State) (v : Byte) : (s.setX v).ram = s.ram := rfl
@[simp] theorem State.setX_chrRam (s : State) (v : Byte) : (s.setX v).chrRam = s.chrRam := rfl
@[simp] theorem State.setX_io (s : State) (v : Byte) : (s.setX v).io = s.io := rfl
@[simp] theorem State.setX_frames (s : State) (v : Byte) : (s.setX v).frames = s.frames := rfl
@[simp] theorem State.setX_cfg (s : State) (v : Byte) : (s.setX v).cfg = s.cfg := rfl
@[simp] theorem State.setX_cart (s : State) (v : Byte) : (s.setX v).cart = s.cart := rfl
@[simp] theorem State.setX_draws (s : State) (v : Byte) : (s.setX v).draws = s.draws := rfl
@[simp] theorem State.setX_out (s : State) (v : Byte) : (s.setX v).out = s.out := rfl

@[simp] theorem State.setY_cpu_a (s : State) (v : Byte) : (s.setY v).cpu.a = s.cpu.a := rfl
@[simp] theorem State.setY_cpu_x (s : State) (v : Byte) : (s.setY v).cpu.x = s.cpu.x := rfl
@[simp] theorem State.setY_cpu_y (s : State) (v : Byte) : (s.setY v).cpu.y = v := rfl
@[simp] theorem State.setY_cpu_sp (s : State) (v : Byte) : (s.setY v).cpu.sp = s.cpu.sp := rfl
@[simp] theorem State.setY_cpu_pc (s : State) (v : Byte) : (s.setY v).cpu.pc = s.cpu.pc := rfl
@[simp] theorem State.setY_cpu_p (s : State) (v : Byte) : (s.setY v).cpu.p = s.cpu.p := rfl
@[simp] theorem State.setY_cpu_cycles (s : State) (v : Byte) : (s.setY v).cpu.cycles = s.cpu.cycles := rfl
@[simp] theorem State.setY_cpu_nmiPending (s : State) (v : Byte) : (s.setY v).cpu.nmiPending = s.cpu.nmiPending := rfl
@[simp] theorem State.setY_cpu_irqPending (s : State) (v : Byte) : (s.setY v).cpu.irqPending = s.cpu.irqPending := rfl
@[simp] theorem State.setY_cpu_resetPending (s : State) (v : Byte) : (s.setY v).cpu.resetPending = s.cpu.resetPending := rfl
@[simp] theorem State.setY_cpu_anomalyCount (s : State) (v : Byte) : (s.setY v).cpu.anomalyCount = s.cpu.anomalyCount := rfl
@[simp] theorem State.setY_cpu_fault (s : State) (v : Byte) : (s.setY v).cpu.fault = s.cpu.fault := rfl
@[simp] theorem State.setY_cpu_dmaStall (s : State) (v : Byte) : (s.setY v).cpu.dmaStall = s.cpu.dmaStall := rfl
@[simp] theorem State.setY_ppu (s : State) (v : Byte) : (s.setY v).ppu = s.ppu := rfl
@[simp] theorem State.setY_ram (s : State) (v : Byte) : (s.setY v).ram = s.ram := rfl
@[simp] theorem State.setY_chrRam (s : State) (v : Byte) : (s.setY v).chrRam = s.chrRam := rfl
@[simp] theorem State.setY_io (s : State) (v : Byte) : (s.setY v).io = s.io := rfl
@[simp] theorem State.setY_frames (s : State) (v : Byte) : (s.setY v).frames = s.frames := rfl
@[simp] theorem State.setY_cfg (s : State) (v : Byte) : (s.setY v).cfg = s.cfg := rfl
@[simp] theorem State.setY_cart (s : State) (v : Byte) : (s.setY v).cart = s.cart := rfl
@[simp] theorem State.setY_draws (s : State) (v : Byte) : (s.setY v).draws = s.draws := rfl
@[simp] theorem State.setY_out (s : State) (v : Byte) : (s.setY v).out = s.out := rfl

@[simp] theorem State.setSp_cpu_a (s : State) (v : Byte) : (s.setSp v).cpu.a = s.cpu.a := rfl
@[simp] theorem State.setSp_cpu_x (s : State) (v : Byte) : (s.setSp v).cpu.x = s.cpu.x := rfl
@[simp] theorem State.setSp_cpu_y (s : State) (v : Byte) : (s.setSp v).cpu.y = s.cpu.y := rfl
@[simp] theorem State.setSp_cpu_sp (s : State) (v : Byte) : (s.setSp v).cpu.sp = v := rfl
@[simp] theorem State.setSp_cpu_pc (s : State) (v : Byte) : (s.setSp v).cpu.pc = s.cpu.pc := rfl
@[simp] theorem State.setSp_cpu_p (s : State) (v : Byte) : (s.setSp v).cpu.p = s.cpu.p := rfl
@[simp] theorem State.setSp_cpu_cycles (s : State) (v : Byte) : (s.setSp v).cpu.cycles = s.cpu.cycles := rfl
@[simp] theorem State.setSp_cpu_nmiPending (s : State) (v : Byte) : (s.setSp v).cpu.nmiPending = s.cpu.nmiPending := rfl
@[simp] theorem State.setSp_cpu_irqPending (s : State) (v : Byte) : (s.setSp v).cpu.irqPending = s.cpu.irqPending := rfl
@[simp] theorem State.setSp_cpu_resetPending (s : State) (v : Byte) : (s.setSp v).cpu.resetPending = s.cpu.resetPending := rfl
@[simp] theorem State.setSp_cpu_anomalyCount (s : State) (v : Byte) : (s.setSp v).cpu.anomalyCount = s.cpu.anomalyCount := rfl
@[simp] theorem State.setSp_cpu_fault (s : State) (v : Byte) : (s.setSp v).cpu.fault = s.cpu.fault := rfl
@[simp] theorem State.setSp_cpu_dmaStall (s : State) (v : Byte) : (s.setSp v).cpu.dmaStall = s.cpu.dmaStall := rfl
@[simp] theorem State.setSp_ppu (s : State) (v : Byte) : (s.setSp v).ppu = s.ppu := rfl
@[simp] theorem State.setSp_ram (s : State) (v : Byte) : (s.setSp v).ram = s.ram := rfl
@[simp] theorem State.setSp_chrRam (s : State) (v : Byte) : (s.setSp v).chrRam = s.chrRam := rfl
@[simp] theorem State.setSp_io (s : State) (v : Byte) : (s.setSp v).io = s.io := rfl
@[simp] theorem State.setSp_frames (s : State) (v : Byte) : (s.setSp v).frames = s.frames := rfl
@[simp] theorem State.setSp_cfg (s : State) (v : Byte) : (s.setSp v).cfg = s.cfg := rfl
@[simp] theorem State.setSp_cart (s : State) (v : Byte) : (s.setSp v).cart = s.cart := rfl
@[simp] theorem State.setSp_draws (s : State) (v : Byte) : (s.setSp v).draws = s.draws := rfl
@[simp] theorem State.setSp_out (s : State) (v : Byte) : (s.setSp v).out = s.out := rfl

@[simp] theorem State.setPc_cpu_a (s : State) (v : Addr) : (s.setPc v).cpu.a = s.cpu.a := rfl
@[simp] theorem State.setPc_cpu_x (s : State) (v : Addr) : (s.setPc v).cpu.x = s.cpu.x := rfl
@[simp] theorem State.setPc_cpu_y (s : State) (v : Addr) : (s.setPc v).cpu.y = s.cpu.y := rfl
@[simp] theorem State.setPc_cpu_sp (s : State) (v : Addr) : (s.setPc v).cpu.sp = s.cpu.sp := rfl
@[simp] theorem State.setPc_cpu_pc (s : State) (v : Addr) : (s.setPc v).cpu.pc = v := rfl
@[simp] theorem State.setPc_cpu_p (s : State) (v : Addr) : (s.setPc v).cpu.p = s.cpu.p := rfl
@[simp] theorem State.setPc_cpu_cycles (s : State) (v : Addr) : (s.setPc v).cpu.cycles = s.cpu.cycles := rfl
@[simp] theorem State.setPc_cpu_nmiPending (s : State) (v : Addr) : (s.setPc v).cpu.nmiPending = s.cpu.nmiPending := rfl
@[simp] theorem State.setPc_cpu_irqPending (s : State) (v : Addr) : (s.setPc v).cpu.irqPending = s.cpu.irqPending := rfl
@[simp] theorem State.setPc_cpu_resetPending (s : State) (v : Addr) : (s.setPc v).cpu.resetPending = s.cpu.resetPending := rfl
@[simp] theorem State.setPc_cpu_anomalyCount (s : State) (v : Addr) : (s.setPc v).cpu.anomalyCount = s.cpu.anomalyCount := rfl
@[simp] theorem State.setPc_cpu_fault (s : State) (v : Addr) : (s.setPc v).cpu.fault = s.cpu.fault := rfl
@[simp] theorem State.setPc_cpu_dmaStall (s : State) (v : Addr) : (s.setPc v).cpu.dmaStall = s.cpu.dmaStall := rfl
@[simp] theorem State.setPc_ppu (s : State) (v : Addr) : (s.setPc v).ppu = s.ppu := rfl
@[simp] theorem State.setPc_ram (s : State) (v : Addr) : (s.setPc v).ram = s.ram := rfl
@[simp] theorem State.setPc_chrRam (s : State) (v : Addr) : (s.setPc v).chrRam = s.chrRam := rfl
@[simp] theorem State.setPc_io (s : State) (v : Addr) : (s.setPc v).io = s.io := rfl
@[simp] theorem State.setPc_frames (s : State) (v : Addr) : (s.setPc v).frames = s.frames := rfl
@[simp] theorem State.setPc_cfg (s : State) (v : Addr) : (s.setPc v).cfg = s.cfg := rfl
@[simp] theorem State.setPc_cart (s : State) (v : Addr) : (s.setPc v).cart = s.cart := rfl
@[simp] theorem State.setPc_draws (s : State) (v : Addr) : (s.setPc v).draws = s.draws := rfl
@[simp] theorem State.setPc_out (s : State) (v : Addr) : (s.setPc v).out = s.out := rfl

@[simp] theorem State.setP_cpu_a (s : State) (v : Flags) : (s.setP v).cpu.a = s.cpu.a := rfl
@[simp] theorem State.setP_cpu_x (s : State) (v : Flags) : (s.setP v).cpu.x = s.cpu.x := rfl
@[simp] theorem State.setP_cpu_y (s : State) (v : Flags) : (s.setP v).cpu.y = s.cpu.y := rfl
@[simp] theorem State.setP_cpu_sp (s : State) (v : Flags) : (s.setP v).cpu.sp = s.cpu.sp := rfl
@[simp] theorem State.setP_cpu_pc (s : State) (v : Flags) : (s.setP v).cpu.pc = s.cpu.pc := rfl
@[simp] theorem State.setP_cpu_p (s : State) (v : Flags) : (s.setP v).cpu.p = v := rfl
@[simp] theorem State.setP_cpu_cycles (s : State) (v : Flags) : (s.setP v).cpu.cycles = s.cpu.cycles := rfl
@[simp] theorem State.setP_cpu_nmiPending (s : State) (v : Flags) : (s.setP v).cpu.nmiPending = s.cpu.nmiPending := rfl
@[simp] theorem State.setP_cpu_irqPending (s : State) (v : Flags) : (s.setP v).cpu.irqPending = s.cpu.irqPending := rfl
@[simp] theorem State.setP_cpu_resetPending (s : State) (v : Flags) : (s.setP v).cpu.resetPending = s.cpu.resetPending := rfl
@[simp] theorem State.setP_cpu_anomalyCount (s : State) (v : Flags) : (s.setP v).cpu.anomalyCount = s.cpu.anomalyCount := rfl
@[simp] theorem State.setP_cpu_fault (s : State) (v : Flags) : (s.setP v).cpu.fault = s.cpu.fault := rfl
@[simp] theorem State.setP_cpu_dmaStall (s : State) (v : Flags) : (s.setP v).cpu.dmaStall = s.cpu.dmaStall := rfl
@[simp] theorem State.setP_ppu (s : State) (v : Flags) : (s.setP v).ppu = s.ppu := rfl
@[simp] theorem State.setP_ram (s : State) (v : Flags) : (s.setP v).ram = s.ram := rfl
@[simp] theorem State.setP_chrRam (s : State) (v : Flags) : (s.setP v).chrRam = s.chrRam := rfl
@[simp] theorem State.setP_io (s : State) (v : Flags) : (s.setP v).io = s.io := rfl
@[simp] theorem State.setP_frames (s : State) (v : Flags) : (s.setP v).frames = s.frames := rfl
@[simp] theorem State.setP_cfg (s : State) (v : Flags) : (s.setP v).cfg = s.cfg := rfl
@[simp] theorem State.setP_cart (s : State) (v : Flags) : (s.setP v).cart = s.cart := rfl
@[simp] theorem State.setP_draws (s : State) (v : Flags) : (s.setP v).draws = s.draws := rfl
@[simp] theorem State.setP_out (s : State) (v : Flags) : (s.setP v).out = s.out := rfl

@[simp] theorem State.spend_cpu_a (s : State) (v : Nat) : (s.spend v).cpu.a = s.cpu.a := rfl
@[simp] theorem State.spend_cpu_x (s : State) (v : Nat) : (s.spend v).cpu.x = s.cpu.x := rfl
@[simp] theorem State.spend_cpu_y (s : State) (v : Nat) : (s.spend v).cpu.y = s.cpu.y := rfl
@[simp] theorem State.spend_cpu_sp (s : State) (v : Nat) : (s.spend v).cpu.sp = s.cpu.sp := rfl
@[simp] theorem State.spend_cpu_pc (s : State) (v : Nat) : (s.spend v).cpu.pc = s.cpu.pc := rfl
@[simp] theorem State.spend_cpu_p (s : State) (v : Nat) : (s.spend v).cpu.p = s.cpu.p := rfl
@[simp] theorem State.spend_cpu_cycles (s : State) (v : Nat) : (s.spend v).cpu.cycles = s.cpu.cycles + v := rfl
@[simp] theorem State.spend_cpu_nmiPending (s : State) (v : Nat) : (s.spend v).cpu.nmiPending = s.cpu.nmiPending := rfl
@[simp] theorem State.spend_cpu_irqPending (s : State) (v : Nat) : (s.spend v).cpu.irqPending = s.cpu.irqPending := rfl
@[simp] theorem State.spend_cpu_resetPending (s : State) (v : Nat) : (s.spend v).cpu.resetPending = s.cpu.resetPending := rfl
@[simp] theorem State.spend_cpu_anomalyCount (s : State) (v : Nat) : (s.spend v).cpu.anomalyCount = s.cpu.anomalyCount := rfl
@[simp] theorem State.spend_cpu_fault (s : State) (v : Nat) : (s.spend v).cpu.fault = s.cpu.fault := rfl
@[simp] theorem State.spend_cpu_dmaStall (s : State) (v : Nat) : (s.spend v).cpu.dmaStall = s.cpu.dmaStall := rfl
@[simp] theorem State.spend_ppu (s : State) (v : Nat) : (s.spend v).ppu = s.ppu := rfl
@[simp] theorem State.spend_ram (s : State) (v : Nat) : (s.spend v).ram = s.ram := rfl
@[simp] theorem State.spend_chrRam (s : State) (v : Nat) : (s.spend v).chrRam = s.chrRam := rfl
@[simp] theorem State.spend_io (s : State) (v : Nat) : (s.spend v).io = s.io := rfl
@[simp] theorem State.spend_frames (s : State) (v : Nat) : (s.spend v).frames = s.frames := rfl
@[simp] theorem State.spend_cfg (s : State) (v : Nat) : (s.spend v).cfg = s.cfg := rfl
@[simp] theorem State.spend_cart (s : State) (v : Nat) : (s.spend v).cart = s.cart := rfl
@[simp] theorem State.spend_draws (s : State) (v : Nat) : (s.spend v).draws = s.draws := rfl
@[simp] theorem State.spend_out (s : State) (v : Nat) : (s.spend v).out = s.out := rfl

@[simp] theorem State.setLatch_io_strobe (s : State) (v : Byte) : (s.setLatch v).io.strobe = s.io.strobe := rfl
@[simp] theorem State.setLatch_io_shift1 (s : State) (v : Byte) : (s.setLatch v).io.shift1 = s.io.shift1 := rfl
@[simp] theorem State.setLatch_io_shift2 (s : State) (v : Byte) : (s.setLatch v).io.shift2 = s.io.shift2 := rfl
@[simp] theorem State.setLatch_io_buttons1 (s : State) (v : Byte) : (s.setLatch v).io.buttons1 = s.io.buttons1 := rfl
@[simp] theorem State.setLatch_io_buttons2 (s : State) (v : Byte) : (s.setLatch v).io.buttons2 = s.io.buttons2 := rfl
@[simp] theorem State.setLatch_io_cpuBusLatch (s : State) (v : Byte) : (s.setLatch v).io.cpuBusLatch = v := rfl
@[simp] theorem State.setLatch_cpu (s : State) (v : Byte) : (s.setLatch v).cpu = s.cpu := rfl
@[simp] theorem State.setLatch_ppu (s : State) (v : Byte) : (s.setLatch v).ppu = s.ppu := rfl
@[simp] theorem State.setLatch_ram (s : State) (v : Byte) : (s.setLatch v).ram = s.ram := rfl
@[simp] theorem State.setLatch_chrRam (s : State) (v : Byte) : (s.setLatch v).chrRam = s.chrRam := rfl
@[simp] theorem State.setLatch_frames (s : State) (v : Byte) : (s.setLatch v).frames = s.frames := rfl
@[simp] theorem State.setLatch_cfg (s : State) (v : Byte) : (s.setLatch v).cfg = s.cfg := rfl
@[simp] theorem State.setLatch_cart (s : State) (v : Byte) : (s.setLatch v).cart = s.cart := rfl
@[simp] theorem State.setLatch_draws (s : State) (v : Byte) : (s.setLatch v).draws = s.draws := rfl
@[simp] theorem State.setLatch_out (s : State) (v : Byte) : (s.setLatch v).out = s.out := rfl

@[simp] theorem State.nextDraw_cpu (s : State) : s.nextDraw.cpu = s.cpu := rfl
@[simp] theorem State.nextDraw_ppu (s : State) : s.nextDraw.ppu = s.ppu := rfl
@[simp] theorem State.nextDraw_ram (s : State) : s.nextDraw.ram = s.ram := rfl
@[simp] theorem State.nextDraw_chrRam (s : State) : s.nextDraw.chrRam = s.chrRam := rfl
@[simp] theorem State.nextDraw_io (s : State) : s.nextDraw.io = s.io := rfl
@[simp] theorem State.nextDraw_frames (s : State) : s.nextDraw.frames = s.frames := rfl
@[simp] theorem State.nextDraw_cfg (s : State) : s.nextDraw.cfg = s.cfg := rfl
@[simp] theorem State.nextDraw_cart (s : State) : s.nextDraw.cart = s.cart := rfl
@[simp] theorem State.nextDraw_draws (s : State) : s.nextDraw.draws = s.draws + 1 := rfl
@[simp] theorem State.nextDraw_out (s : State) : s.nextDraw.out = s.out := rfl

@[simp] theorem Flags.setZN_c (p : Flags) (r : Byte) : (p.setZN r).c = p.c := rfl
@[simp] theorem Flags.setZN_z (p : Flags) (r : Byte) : (p.setZN r).z = (r == 0) := rfl
@[simp] theorem Flags.setZN_i (p : Flags) (r : Byte) : (p.setZN r).i = p.i := rfl
@[simp] theorem Flags.setZN_d (p : Flags) (r : Byte) : (p.setZN r).d = p.d := rfl
@[simp] theorem Flags.setZN_b (p : Flags) (r : Byte) : (p.setZN r).b = p.b := rfl
@[simp] theorem Flags.setZN_u (p : Flags) (r : Byte) : (p.setZN r).u = p.u := rfl
@[simp] theorem Flags.setZN_v (p : Flags) (r : Byte) : (p.setZN r).v = p.v := rfl
@[simp] theorem Flags.setZN_n (p : Flags) (r : Byte) : (p.setZN r).n = r.getLsbD 7 := rfl

@[simp] theorem Flags.setAlu_c (p : Flags) (r : AluResult) : (p.setAlu r).c = r.c := rfl
@[simp] theorem Flags.setAlu_z (p : Flags) (r : AluResult) : (p.setAlu r).z = r.z := rfl
@[simp] theorem Flags.setAlu_i (p : Flags) (r : AluResult) : (p.setAlu r).i = p.i := rfl
@[simp] theorem Flags.setAlu_d (p : Flags) (r : AluResult) : (p.setAlu r).d = p.d := rfl
@[simp] theorem Flags.setAlu_b (p : Flags) (r : AluResult) : (p.setAlu r).b = p.b := rfl
@[simp] theorem Flags.setAlu_u (p : Flags) (r : AluResult) : (p.setAlu r).u = p.u := rfl
@[simp] theorem Flags.setAlu_v (p : Flags) (r : AluResult) : (p.setAlu r).v = r.v := rfl
@[simp] theorem Flags.setAlu_n (p : Flags) (r : AluResult) : (p.setAlu r).n = r.n := rfl

@[simp] theorem Flags.compare_c (p : Flags) (r m : Byte) : (p.compare r m).c = decide (m.toNat ≤ r.toNat) := rfl
@[simp] theorem Flags.compare_z (p : Flags) (r m : Byte) : (p.compare r m).z = (r == m) := rfl
@[simp] theorem Flags.compare_i (p : Flags) (r m : Byte) : (p.compare r m).i = p.i := rfl
@[simp] theorem Flags.compare_d (p : Flags) (r m : Byte) : (p.compare r m).d = p.d := rfl
@[simp] theorem Flags.compare_b (p : Flags) (r m : Byte) : (p.compare r m).b = p.b := rfl
@[simp] theorem Flags.compare_u (p : Flags) (r m : Byte) : (p.compare r m).u = p.u := rfl
@[simp] theorem Flags.compare_v (p : Flags) (r m : Byte) : (p.compare r m).v = p.v := rfl
@[simp] theorem Flags.compare_n (p : Flags) (r m : Byte) : (p.compare r m).n = (r - m).getLsbD 7 := rfl

@[simp] theorem Flags.bitTest_c (p : Flags) (a m : Byte) : (p.bitTest a m).c = p.c := rfl
@[simp] theorem Flags.bitTest_z (p : Flags) (a m : Byte) : (p.bitTest a m).z = (a &&& m == 0) := rfl
@[simp] theorem Flags.bitTest_i (p : Flags) (a m : Byte) : (p.bitTest a m).i = p.i := rfl
@[simp] theorem Flags.bitTest_d (p : Flags) (a m : Byte) : (p.bitTest a m).d = p.d := rfl
@[simp] theorem Flags.bitTest_b (p : Flags) (a m : Byte) : (p.bitTest a m).b = p.b := rfl
@[simp] theorem Flags.bitTest_u (p : Flags) (a m : Byte) : (p.bitTest a m).u = p.u := rfl
@[simp] theorem Flags.bitTest_v (p : Flags) (a m : Byte) : (p.bitTest a m).v = m.getLsbD 6 := rfl
@[simp] theorem Flags.bitTest_n (p : Flags) (a m : Byte) : (p.bitTest a m).n = m.getLsbD 7 := rfl

@[simp] theorem Flags.restore_c (p : Flags) (b : Byte) : (p.restore b).c = b.getLsbD 0 := rfl
@[simp] theorem Flags.restore_z (p : Flags) (b : Byte) : (p.restore b).z = b.getLsbD 1 := rfl
@[simp] theorem Flags.restore_i (p : Flags) (b : Byte) : (p.restore b).i = b.getLsbD 2 := rfl
@[simp] theorem Flags.restore_d (p : Flags) (b : Byte) : (p.restore b).d = b.getLsbD 3 := rfl
@[simp] theorem Flags.restore_b (p : Flags) (b : Byte) : (p.restore b).b = p.b := rfl
@[simp] theorem Flags.restore_u (p : Flags) (b : Byte) : (p.restore b).u = p.u := rfl
@[simp] theorem Flags.restore_v (p : Flags) (b : Byte) : (p.restore b).v = b.getLsbD 6 := rfl
@[simp] theorem Flags.restore_n (p : Flags) (b : Byte) : (p.restore b).n = b.getLsbD 7 := rfl

@[simp] theorem State.setZN_cpu_a (s : State) (v : Byte) : (s.setZN v).cpu.a = s.cpu.a := rfl
@[simp] theorem State.setZN_cpu_x (s : State) (v : Byte) : (s.setZN v).cpu.x = s.cpu.x := rfl
@[simp] theorem State.setZN_cpu_y (s : State) (v : Byte) : (s.setZN v).cpu.y = s.cpu.y := rfl
@[simp] theorem State.setZN_cpu_sp (s : State) (v : Byte) : (s.setZN v).cpu.sp = s.cpu.sp := rfl
@[simp] theorem State.setZN_cpu_pc (s : State) (v : Byte) : (s.setZN v).cpu.pc = s.cpu.pc := rfl
@[simp] theorem State.setZN_cpu_p (s : State) (v : Byte) : (s.setZN v).cpu.p = s.cpu.p.setZN v := rfl
@[simp] theorem State.setZN_cpu_cycles (s : State) (v : Byte) : (s.setZN v).cpu.cycles = s.cpu.cycles := rfl
@[simp] theorem State.setZN_cpu_nmiPending (s : State) (v : Byte) : (s.setZN v).cpu.nmiPending = s.cpu.nmiPending := rfl
@[simp] theorem State.setZN_cpu_irqPending (s : State) (v : Byte) : (s.setZN v).cpu.irqPending = s.cpu.irqPending := rfl
@[simp] theorem State.setZN_cpu_resetPending (s : State) (v : Byte) : (s.setZN v).cpu.resetPending = s.cpu.resetPending := rfl
@[simp] theorem State.setZN_cpu_anomalyCount (s : State) (v : Byte) : (s.setZN v).cpu.anomalyCount = s.cpu.anomalyCount := rfl
@[simp] theorem State.setZN_cpu_fault (s : State) (v : Byte) : (s.setZN v).cpu.fault = s.cpu.fault := rfl
@[simp] theorem State.setZN_cpu_dmaStall (s : State) (v : Byte) : (s.setZN v).cpu.dmaStall = s.cpu.dmaStall := rfl
@[simp] theorem State.setZN_ppu (s : State) (v : Byte) : (s.setZN v).ppu = s.ppu := rfl
@[simp] theorem State.setZN_ram (s : State) (v : Byte) : (s.setZN v).ram = s.ram := rfl
@[simp] theorem State.setZN_chrRam (s : State) (v : Byte) : (s.setZN v).chrRam = s.chrRam := rfl
@[simp] theorem State.setZN_io (s : State) (v : Byte) : (s.setZN v).io = s.io := rfl
@[simp] theorem State.setZN_frames (s : State) (v : Byte) : (s.setZN v).frames = s.frames := rfl
@[simp] theorem State.setZN_cfg (s : State) (v : Byte) : (s.setZN v).cfg = s.cfg := rfl
@[simp] theorem State.setZN_cart (s : State) (v : Byte) : (s.setZN v).cart = s.cart := rfl
@[simp] theorem State.setZN_draws (s : State) (v : Byte) : (s.setZN v).draws = s.draws := rfl
@[simp] theorem State.setZN_out (s : State) (v : Byte) : (s.setZN v).out = s.out := rfl

end Sys2Proof.Machine
end

