-- ==== Sys2Proof/Laws/Bus.lean ====
section
/-! SUPPORT. The bus, said once: whose address it is, what a read and a write do in RAM and in PRG, and all that any read and
any write can change. -/

namespace Sys2Proof.Machine

/-! ### Routing (20_memory.md R71) -/

theorem route_ram {a : Addr} (h : a.toNat ≤ 0x1FFF) : route a = .ram (a.toNat % 0x800) := by simp [route, h]

theorem route_ppu {a : Addr} (h : 0x2000 ≤ a.toNat) (h' : a.toNat ≤ 0x3FFF) :
    route a = .ppuReg (PpuReg.ofSelect (a.toNat % 8)) := by
  simp [route, h', show ¬a.toNat ≤ 0x1FFF by omega]

theorem route_io {a : Addr} (h : 0x4000 ≤ a.toNat) (h' : a.toNat ≤ 0x401F) : route a = .apuIo a := by
  simp [route, h', show ¬a.toNat ≤ 0x1FFF by omega, show ¬a.toNat ≤ 0x3FFF by omega]

theorem route_cart {a : Addr} (h : 0x4020 ≤ a.toNat) : route a = .cart a := by
  simp [route, show ¬a.toNat ≤ 0x1FFF by omega, show ¬a.toNat ≤ 0x3FFF by omega, show ¬a.toNat ≤ 0x401F by omega]

/-! ### Reads and writes of RAM and PRG -/

theorem memRead_ram {a : Addr} (h : a.toNat ≤ 0x1FFF) (s : State) :
    memRead a s = (s.ram.read (a.toNat % 0x800), s.setLatch (s.ram.read (a.toNat % 0x800))) := by
  simp [memRead, route_ram h, ownerRead]

theorem memRead_prg {a : Addr} (h : 0x8000 ≤ a.toNat) (s : State) :
    memRead a s = (s.cart.prgByte a, s.setLatch (s.cart.prgByte a)) := by
  simp [memRead, route_cart (show 0x4020 ≤ a.toNat by omega), ownerRead, mapRead, h]

theorem memWrite_ram {a : Addr} (h : a.toNat ≤ 0x1FFF) (v : Byte) (s : State) :
    memWrite a v s = (s.setRam (s.ram.write (a.toNat % 0x800) v)).setLatch v := by
  simp [memWrite, route_ram h, ownerWrite]

/-- A write of the cartridge window has no effect but on the bus latch (R77). -/
theorem memWrite_cart {a : Addr} (h : 0x4020 ≤ a.toNat) (v : Byte) (s : State) : memWrite a v s = s.setLatch v := by
  simp [memWrite, route_cart h, ownerWrite, mapWrite]

/-! ### Words -/

theorem addrOf_toNat (hi lo : Byte) : (addrOf hi lo).toNat = 256 * hi.toNat + lo.toNat := by
  have := lo.isLt
  simp only [addrOf, BitVec.toNat_append]
  rw [← Nat.shiftLeft_add_eq_or_of_lt this, Nat.shiftLeft_eq]
  omega

@[simp] theorem addrOf_hiByte_loByte (a : Addr) : addrOf (hiByte a) (loByte a) = a := by
  apply BitVec.eq_of_toNat_eq
  have := a.isLt
  rw [addrOf_toNat]
  simp only [hiByte, loByte, BitVec.extractLsb'_toNat, Nat.shiftRight_eq_div_pow]
  omega

@[simp] theorem hiByte_addrOf (hi lo : Byte) : hiByte (addrOf hi lo) = hi := by
  apply BitVec.eq_of_toNat_eq
  have := hi.isLt
  have := lo.isLt
  simp only [hiByte, BitVec.extractLsb'_toNat, Nat.shiftRight_eq_div_pow, addrOf_toNat]
  omega

@[simp] theorem loByte_addrOf (hi lo : Byte) : loByte (addrOf hi lo) = lo := by
  apply BitVec.eq_of_toNat_eq
  have := lo.isLt
  simp only [loByte, BitVec.extractLsb'_toNat, Nat.shiftRight_eq_div_pow, addrOf_toNat]
  omega

theorem addrOf_zero (z : Byte) : addrOf 0 z = z.setWidth 16 := by
  apply BitVec.eq_of_toNat_eq
  have := z.isLt
  simp [addrOf_toNat]
  omega

theorem stackAddr_toNat (sp : Byte) : (stackAddr sp).toNat = 0x100 + sp.toNat := by simp [stackAddr, addrOf_toNat]

/-! ### The stack -/

/-- A push: the byte at page 1, SP one lower, the bus latch; nothing else (00_scope.md R13). -/
theorem push_eq (v : Byte) (s : State) :
    push v s =
      { s with
        cpu := { s.cpu with sp := s.cpu.sp - 1 }
        ram := s.ram.write (0x100 + s.cpu.sp.toNat) v
        io := { s.io with cpuBusLatch := v } } := by
  have := s.cpu.sp.isLt
  simp only [push, memWrite_ram (a := stackAddr s.cpu.sp) (by rw [stackAddr_toNat]; omega), stackAddr_toNat,
    show (0x100 + s.cpu.sp.toNat) % 0x800 = 0x100 + s.cpu.sp.toNat by omega]
  rfl

/-- A pull: the byte above SP, SP one higher, the bus latch; nothing else (00_scope.md R13). -/
theorem pull_eq (s : State) :
    pull s =
      (s.ram.read (0x100 + (s.cpu.sp + 1).toNat),
        { s with
          cpu := { s.cpu with sp := s.cpu.sp + 1 }
          io := { s.io with cpuBusLatch := s.ram.read (0x100 + (s.cpu.sp + 1).toNat) } }) := by
  have := (s.cpu.sp + 1).isLt
  simp only [pull, State.setSp_cpu_sp, memRead_ram (a := stackAddr (s.cpu.sp + 1)) (by rw [stackAddr_toNat]; omega), stackAddr_toNat,
    show (0x100 + (s.cpu.sp + 1).toNat) % 0x800 = 0x100 + (s.cpu.sp + 1).toNat by omega]
  rfl

theorem pushWord_eq (a : Addr) (s : State) :
    pushWord a s =
      { s with
        cpu := { s.cpu with sp := s.cpu.sp - 2 }
        ram := (s.ram.write (0x100 + s.cpu.sp.toNat) (hiByte a)).write (0x100 + (s.cpu.sp - 1).toNat) (loByte a)
        io := { s.io with cpuBusLatch := loByte a } } := by
  simp only [pushWord, push_eq, show s.cpu.sp - 1 - 1 = s.cpu.sp - 2 by bv_omega]

theorem pullWord_eq (s : State) :
    pullWord s =
      (addrOf (s.ram.read (0x100 + (s.cpu.sp + 2).toNat)) (s.ram.read (0x100 + (s.cpu.sp + 1).toNat)),
        { s with
          cpu := { s.cpu with sp := s.cpu.sp + 2 }
          io := { s.io with cpuBusLatch := s.ram.read (0x100 + (s.cpu.sp + 2).toNat) } }) := by
  simp only [pullWord, pull_eq, show s.cpu.sp + 1 + 1 = s.cpu.sp + 2 by bv_omega]

/-- A vector of the cartridge: `Read16` from 0x8000 up. -/
theorem read16_prg {a : Addr} (h : 0x8000 ≤ a.toNat) (h' : a.toNat < 0xFFFF) (s : State) :
    read16 a s = (addrOf (s.cart.prgByte (a + 1)) (s.cart.prgByte a), s.setLatch (s.cart.prgByte (a + 1))) := by
  have h1 : 0x8000 ≤ (a + 1).toNat := by bv_omega
  simp only [read16, memRead_prg h, memRead_prg h1, State.setLatch_cart]
  rfl

/-- Entering a handler, whole (60_exceptions.md R463, 46_flags_system.md R275). -/
theorem enterInterrupt_eq (ret : Addr) (brk : Bool) {vector : Addr} (h : 0x8000 ≤ vector.toNat) (h' : vector.toNat < 0xFFFF)
    (s : State) :
    enterInterrupt ret brk vector s =
      { s with
        cpu := { s.cpu with
          sp := s.cpu.sp - 3
          p := { s.cpu.p with i := true }
          pc := addrOf (s.cart.prgByte (vector + 1)) (s.cart.prgByte vector) }
        ram := ((s.ram.write (0x100 + s.cpu.sp.toNat) (hiByte ret)).write (0x100 + (s.cpu.sp - 1).toNat) (loByte ret)).write
          (0x100 + (s.cpu.sp - 2).toNat) (s.cpu.p.pushByte brk)
        io := { s.io with cpuBusLatch := s.cart.prgByte (vector + 1) } } := by
  simp only [enterInterrupt, pushWord_eq, push_eq, read16_prg h h', show s.cpu.sp - 2 - 1 = s.cpu.sp - 3 by bv_omega]
  rfl

/-- Returning from a handler, whole (46_flags_system.md R276). -/
theorem returnFromInterrupt_eq (s : State) :
    returnFromInterrupt s =
      { s with
        cpu := { s.cpu with
          sp := s.cpu.sp + 3
          p := s.cpu.p.restore (s.ram.read (0x100 + (s.cpu.sp + 1).toNat))
          pc := addrOf (s.ram.read (0x100 + (s.cpu.sp + 3).toNat)) (s.ram.read (0x100 + (s.cpu.sp + 2).toNat)) }
        io := { s.io with cpuBusLatch := s.ram.read (0x100 + (s.cpu.sp + 3).toNat) } } := by
  simp only [returnFromInterrupt, pull_eq, pullWord_eq, State.setP_cpu_sp, State.setP_ram,
    show s.cpu.sp + 1 + 1 = s.cpu.sp + 2 by bv_omega, show s.cpu.sp + 1 + 2 = s.cpu.sp + 3 by bv_omega]
  rfl

/-! ### All that a bus read can change -/

/-- What a bus read leaves: everything but the count of free values, five fields of the PPU, the shift registers and the bus
latch. -/
structure ReadEffect (s t : State) : Prop where
  cpu    : t.cpu = s.cpu
  ram    : t.ram = s.ram
  chrRam : t.chrRam = s.chrRam
  frames : t.frames = s.frames
  cfg    : t.cfg = s.cfg
  cart   : t.cart = s.cart
  out    : t.out = s.out
  ppu    : t.ppu =
    { s.ppu with vblank := t.ppu.vblank, w := t.ppu.w, v := t.ppu.v, readBuffer := t.ppu.readBuffer, ioLatch := t.ppu.ioLatch }
  io     : t.io = { s.io with shift1 := t.io.shift1, shift2 := t.io.shift2, cpuBusLatch := t.io.cpuBusLatch }

theorem ReadEffect.refl (s : State) : ReadEffect s s := ⟨rfl, rfl, rfl, rfl, rfl, rfl, rfl, rfl, rfl⟩

theorem ReadEffect.trans {s t u : State} (h : ReadEffect s t) (k : ReadEffect t u) : ReadEffect s u where
  cpu := k.cpu.trans h.cpu
  ram := k.ram.trans h.ram
  chrRam := k.chrRam.trans h.chrRam
  frames := k.frames.trans h.frames
  cfg := k.cfg.trans h.cfg
  cart := k.cart.trans h.cart
  out := k.out.trans h.out
  ppu := by rw [k.ppu, h.ppu]
  io := by rw [k.io, h.io]

theorem ppuRegRead_effect (r : PpuReg) (s : State) : ReadEffect s (ppuRegRead r s).2 := by
  cases r
  case data =>
    by_cases h : s.ppu.dataAddr.toNat < 0x3F00 <;> simp only [ppuRegRead, ppuRegValue, dataRead, h, if_true, if_false] <;>
      exact ⟨rfl, rfl, rfl, rfl, rfl, rfl, rfl, rfl, rfl⟩
  all_goals exact ⟨rfl, rfl, rfl, rfl, rfl, rfl, rfl, rfl, rfl⟩

theorem controllerRead_effect (k : Port) (s : State) : ReadEffect s (controllerRead k s).2 := by
  refine ⟨rfl, rfl, rfl, rfl, rfl, rfl, rfl, rfl, ?_⟩
  cases k <;> simp only [controllerRead, State.setIo_io, Io.afterRead, Io.setShift, openBus] <;> split <;> rfl

theorem ioRead_effect (a : Addr) (s : State) : ReadEffect s (ioRead a s).2 := by
  simp only [ioRead]
  split
  · exact controllerRead_effect _ s
  · split
    · exact controllerRead_effect _ s
    · split <;> exact ⟨rfl, rfl, rfl, rfl, rfl, rfl, rfl, rfl, rfl⟩

theorem mapRead_effect (a : Addr) (s : State) : ReadEffect s (mapRead a s).2 := by
  simp only [mapRead]
  split <;> exact ⟨rfl, rfl, rfl, rfl, rfl, rfl, rfl, rfl, rfl⟩

theorem ownerRead_effect (o : Owner) (s : State) : ReadEffect s (ownerRead o s).2 := by
  cases o with
  | ram cell => exact .refl s
  | ppuReg r => exact ppuRegRead_effect r s
  | apuIo a => exact ioRead_effect a s
  | cart a => exact mapRead_effect a s

theorem setLatch_effect (v : Byte) (s : State) : ReadEffect s (s.setLatch v) := ⟨rfl, rfl, rfl, rfl, rfl, rfl, rfl, rfl, rfl⟩

theorem memRead_effect (a : Addr) (s : State) : ReadEffect s (memRead a s).2 :=
  (ownerRead_effect _ s).trans (setLatch_effect _ _)

/-- Outside the PPU registers and the I/O window a read changes nothing but the bus latch and the count of free values. -/
theorem memRead_plain {a : Addr} (h : a.toNat < 0x2000 ∨ 0x4020 ≤ a.toNat) (s : State) :
    (memRead a s).2 = { s with io := { s.io with cpuBusLatch := (memRead a s).1 }, draws := (memRead a s).2.draws } := by
  rcases h with h | h
  · rw [memRead_ram (by omega)]; rfl
  · simp only [memRead, route_cart h, ownerRead, mapRead]
    split <;> rfl

theorem read16InPage_effect (page z : Byte) (s : State) : ReadEffect s (read16InPage page z s).2 :=
  (memRead_effect _ s).trans (memRead_effect _ _)

/-- The pointer read of an indirect mode: two bytes of page 0 (40_addressing_modes.md R148, R149). -/
theorem read16InPage_zero (z : Byte) (s : State) :
    read16InPage 0 z s =
      (addrOf (s.ram.read (z + 1).toNat) (s.ram.read z.toNat), s.setLatch (s.ram.read (z + 1).toNat)) := by
  have h1 := z.isLt
  have h2 := (z + 1).isLt
  have e1 : (addrOf 0 z).toNat = z.toNat := by simp [addrOf_toNat]
  have e2 : (addrOf 0 (z + 1)).toNat = (z + 1).toNat := by simp [addrOf_toNat]
  simp only [read16InPage]
  rw [memRead_ram (a := addrOf 0 z) (by omega), memRead_ram (a := addrOf 0 (z + 1)) (by omega), e1, e2,
    Nat.mod_eq_of_lt (show z.toNat < 0x800 by omega), Nat.mod_eq_of_lt (show (z + 1).toNat < 0x800 by omega)]
  rfl

/-- Resolving a mode changes nothing but the bus latch. -/
theorem resolve_state (m : EaMode) (s : State) :
    (resolve m s).2 = { s with io := { s.io with cpuBusLatch := (resolve m s).2.io.cpuBusLatch } } := by
  cases m <;> simp only [resolve] <;> first | rfl | (rw [read16InPage_zero]; rfl)

/-- Resolving a mode does not depend on the cycle counter, and gives the same address whatever it is. -/
theorem resolve_cpu (m : EaMode) (s : State) : (resolve m s).2.cpu = s.cpu := by rw [resolve_state]

@[simp] theorem resolve_ram (m : EaMode) (s : State) : (resolve m s).2.ram = s.ram := by rw [resolve_state]

/-! ### All that a bus write can change -/

/-- What a bus write leaves: the CPU but for the stall, the cartridge, the parameters, the frames and their count, the anomaly
log, the PPU's position and frame, and the buttons. -/
structure WriteEffect (s t : State) : Prop where
  cpu       : t.cpu = { s.cpu with dmaStall := t.cpu.dmaStall }
  frames    : t.frames = s.frames
  cfg       : t.cfg = s.cfg
  cart      : t.cart = s.cart
  out       : t.out = { s.out with apuEvents := t.out.apuEvents }
  ppu       : t.ppu =
    { s.ppu with
      ctrl := t.ppu.ctrl, mask := t.ppu.mask, vblank := t.ppu.vblank, oamAddr := t.ppu.oamAddr, v := t.ppu.v, t := t.ppu.t
      x := t.ppu.x, w := t.ppu.w, readBuffer := t.ppu.readBuffer, ioLatch := t.ppu.ioLatch, oam := t.ppu.oam
      ciram := t.ppu.ciram, palette := t.ppu.palette, nmiRequest := t.ppu.nmiRequest }
  io        : t.io =
    { s.io with strobe := t.io.strobe, shift1 := t.io.shift1, shift2 := t.io.shift2, cpuBusLatch := t.io.cpuBusLatch }

theorem WriteEffect.refl (s : State) : WriteEffect s s := ⟨rfl, rfl, rfl, rfl, rfl, rfl, rfl⟩

theorem WriteEffect.trans {s t u : State} (h : WriteEffect s t) (k : WriteEffect t u) : WriteEffect s u where
  cpu := by rw [k.cpu, h.cpu]
  frames := k.frames.trans h.frames
  cfg := k.cfg.trans h.cfg
  cart := k.cart.trans h.cart
  out := by rw [k.out, h.out]
  ppu := by rw [k.ppu, h.ppu]
  io := by rw [k.io, h.io]

theorem ReadEffect.toWrite {s t : State} (h : ReadEffect s t) : WriteEffect s t where
  cpu := by rw [h.cpu]
  frames := h.frames
  cfg := h.cfg
  cart := h.cart
  out := by rw [h.out]
  ppu := by rw [h.ppu]
  io := by rw [h.io]

theorem vramWrite_effect (a : PpuAddr) (d : Byte) (s : State) : WriteEffect s (vramWrite a d s) := by
  simp only [vramWrite]
  split
  · split <;> exact ⟨rfl, rfl, rfl, rfl, rfl, rfl, rfl⟩
  · split <;> exact ⟨rfl, rfl, rfl, rfl, rfl, rfl, rfl⟩

theorem ppuRegWrite_effect (r : PpuReg) (d : Byte) (s : State) : WriteEffect s (ppuRegWrite r d s) := by
  have base : WriteEffect s (s.setPpu { s.ppu with ioLatch := d }) := ⟨rfl, rfl, rfl, rfl, rfl, rfl, rfl⟩
  cases r
  case data => exact base.trans ((vramWrite_effect _ d _).trans ⟨rfl, rfl, rfl, rfl, rfl, rfl, rfl⟩)
  case scroll =>
    by_cases h : s.ppu.w <;> simp only [ppuRegWrite, scrollWrite, State.setPpu_ppu, h] <;>
      exact ⟨rfl, rfl, rfl, rfl, rfl, by simp, rfl⟩
  case address =>
    by_cases h : s.ppu.w <;> simp only [ppuRegWrite, addrWrite, State.setPpu_ppu, h] <;>
      exact ⟨rfl, rfl, rfl, rfl, rfl, by simp, rfl⟩
  all_goals exact ⟨rfl, rfl, rfl, rfl, rfl, rfl, rfl⟩

theorem oamDmaCopy_effect (d : Byte) (n i : Nat) (s : State) : WriteEffect s (oamDmaCopy d n i s) := by
  induction n generalizing i s with
  | zero => exact .refl s
  | succ n ih =>
    rw [oamDmaCopy]
    refine (memRead_effect (addrOf d (BitVec.ofNat 8 i)) s).toWrite.trans (WriteEffect.trans ?_ (ih _ _))
    exact ⟨rfl, rfl, rfl, rfl, rfl, rfl, rfl⟩

theorem dmaCycles_effect (s : State) : WriteEffect s (dmaCycles s).2 := by
  simp only [dmaCycles]
  split <;> exact ⟨rfl, rfl, rfl, rfl, rfl, rfl, rfl⟩

/-- The stall of a DMA: 513 or 514 cycles (52_io_dma_controllers.md R403). -/
theorem dmaCycles_bounds (s : State) : (dmaCycles s).1 = 513 ∨ (dmaCycles s).1 = 514 := by
  simp only [dmaCycles]
  split
  · have := Nat.mod_two_eq_zero_or_one s.cpu.cycles; simp only; omega
  · cases Config.dmaExtraCycle s.draws <;> simp

theorem oamDma_effect (d : Byte) (s : State) : WriteEffect s (oamDma d s) := by
  unfold oamDma
  generalize hu : oamDmaCopy d 256 0 s = u
  have h : WriteEffect s u := hu ▸ oamDmaCopy_effect d 256 0 s
  exact h.trans ((dmaCycles_effect u).trans ⟨rfl, rfl, rfl, rfl, rfl, rfl, rfl⟩)

theorem ioWrite_effect (a : Addr) (d : Byte) (s : State) : WriteEffect s (ioWrite a d s) := by
  simp only [ioWrite]
  split
  · exact oamDma_effect d s
  · split
    · refine ⟨rfl, rfl, rfl, rfl, rfl, rfl, ?_⟩
      simp only [controllerStrobe, State.setIo_io]
      split <;> rfl
    · split <;> exact ⟨rfl, rfl, rfl, rfl, rfl, rfl, rfl⟩

theorem ownerWrite_effect (o : Owner) (v : Byte) (s : State) : WriteEffect s (ownerWrite o v s) := by
  cases o with
  | ram cell => exact ⟨rfl, rfl, rfl, rfl, rfl, rfl, rfl⟩
  | ppuReg r => exact ppuRegWrite_effect r v s
  | apuIo a => exact ioWrite_effect a v s
  | cart a => exact .refl s

theorem memWrite_effect (a : Addr) (v : Byte) (s : State) : WriteEffect s (memWrite a v s) :=
  (ownerWrite_effect _ v s).trans (setLatch_effect v _).toWrite

end Sys2Proof.Machine
end

