-- ==== Sys2Proof/Laws/Writes.lean ====
section
/-! SUPPORT. Which memories a bus write can reach, and that every memory operation keeps the canonical form and the size. -/

namespace Sys2Proof.Machine

/-! ### Addresses and cells -/

theorem mod_0x800_lt (n : Nat) : n % 0x800 < 2048 := Nat.mod_lt _ (by decide)

theorem ntIndex_lt (m : Mirroring) (a : PpuAddr) : ntIndex m a < 2048 := by
  simp only [ntIndex]
  cases m <;> simp only <;> omega

theorem palIndex_lt (a : PpuAddr) : palIndex a < 32 := by
  simp only [palIndex]
  split <;> omega

/-- The register of a select value, named back. -/
theorem ofSelect_eq {n : Nat} (h : n < 8) :
    (PpuReg.ofSelect n = .oamData ↔ n = 4) ∧ (PpuReg.ofSelect n = .data ↔ n = 7) := by
  interval_cases n <;> decide

/-! ### Register writes -/

theorem vramWrite_oam (a : PpuAddr) (d : Byte) (s : State) : (vramWrite a d s).ppu.oam = s.ppu.oam := by
  simp only [vramWrite]
  split
  · split <;> rfl
  · split <;> rfl

theorem vramWrite_ram (a : PpuAddr) (d : Byte) (s : State) : (vramWrite a d s).ram = s.ram := by
  simp only [vramWrite]
  split
  · split <;> rfl
  · split <;> rfl

theorem vramWrite_cpu (a : PpuAddr) (d : Byte) (s : State) : (vramWrite a d s).cpu = s.cpu := by
  simp only [vramWrite]
  split
  · split <;> rfl
  · split <;> rfl

/-- A write through the PPU window: OAM only through OAM data, the PPU's address space only through Data. -/
theorem ppuRegWrite_memories (r : PpuReg) (d : Byte) (s : State) :
    (ppuRegWrite r d s).ram = s.ram ∧ (ppuRegWrite r d s).cpu = s.cpu ∧
    (r ≠ .oamData → (ppuRegWrite r d s).ppu.oam = s.ppu.oam) ∧
    (r ≠ .data → (ppuRegWrite r d s).chrRam = s.chrRam ∧ (ppuRegWrite r d s).ppu.ciram = s.ppu.ciram ∧
      (ppuRegWrite r d s).ppu.palette = s.ppu.palette) := by
  cases r
  case data =>
    refine ⟨?_, ?_, fun _ => ?_, fun h => absurd rfl h⟩
    · exact vramWrite_ram _ d _
    · exact vramWrite_cpu _ d _
    · exact vramWrite_oam _ d _
  case scroll => by_cases h : s.ppu.w <;> simp [ppuRegWrite, scrollWrite, h]
  case address => by_cases h : s.ppu.w <;> simp [ppuRegWrite, addrWrite, h]
  case oamData => exact ⟨rfl, rfl, fun h => absurd rfl h, fun _ => ⟨rfl, rfl, rfl⟩⟩
  all_goals exact ⟨rfl, rfl, fun _ => rfl, fun _ => ⟨rfl, rfl, rfl⟩⟩

/-! ### OAM DMA -/

/-- A DMA writes no memory but OAM. -/
theorem oamDmaCopy_memories (d : Byte) (n i : Nat) (s : State) :
    (oamDmaCopy d n i s).ram = s.ram ∧ (oamDmaCopy d n i s).chrRam = s.chrRam ∧ (oamDmaCopy d n i s).cpu = s.cpu ∧
    (oamDmaCopy d n i s).ppu.ciram = s.ppu.ciram ∧ (oamDmaCopy d n i s).ppu.palette = s.ppu.palette := by
  induction n generalizing i s with
  | zero => exact ⟨rfl, rfl, rfl, rfl, rfl⟩
  | succ n ih =>
    have e := memRead_effect (addrOf d (BitVec.ofNat 8 i)) s
    have hp := e.ppu
    simp only [oamDmaCopy]
    obtain ⟨h1, h2, h3, h4, h5⟩ := ih (i + 1) ((memRead (addrOf d (BitVec.ofNat 8 i)) s).2.setPpu
      { (memRead (addrOf d (BitVec.ofNat 8 i)) s).2.ppu with
        oam := (memRead (addrOf d (BitVec.ofNat 8 i)) s).2.ppu.oam.write
          (((memRead (addrOf d (BitVec.ofNat 8 i)) s).2.ppu.oamAddr.toNat + i) % 256)
          (memRead (addrOf d (BitVec.ofNat 8 i)) s).1 })
    refine ⟨h1.trans e.ram, h2.trans e.chrRam, h3.trans e.cpu, h4.trans ?_, h5.trans ?_⟩
    · simp only [State.setPpu_ppu]; rw [hp]
    · simp only [State.setPpu_ppu]; rw [hp]

theorem dmaCycles_state (s : State) : (dmaCycles s).2 = { s with draws := (dmaCycles s).2.draws } := by
  simp only [dmaCycles]
  split <;> rfl

/-- A DMA: only OAM of all memories, and of the CPU only the stall, 513 or 514. -/
theorem oamDma_memories (d : Byte) (s : State) :
    (oamDma d s).ram = s.ram ∧ (oamDma d s).chrRam = s.chrRam ∧ (oamDma d s).ppu.ciram = s.ppu.ciram ∧
    (oamDma d s).ppu.palette = s.ppu.palette ∧
    ((oamDma d s).cpu = { s.cpu with dmaStall := 513 } ∨ (oamDma d s).cpu = { s.cpu with dmaStall := 514 }) := by
  unfold oamDma
  generalize hu : oamDmaCopy d 256 0 s = u
  obtain ⟨h1, h2, h3, h4, h5⟩ := hu ▸ oamDmaCopy_memories d 256 0 s
  have hs := dmaCycles_state u
  simp only [State.setCpu_ram, State.setCpu_chrRam, State.setCpu_ppu, State.setCpu_cpu]
  refine ⟨by rw [hs]; exact h1, by rw [hs]; exact h2, by rw [hs]; exact h4, by rw [hs]; exact h5, ?_⟩
  rcases dmaCycles_bounds u with h | h
  · left; rw [h, hs]; simp only; rw [h3]
  · right; rw [h, hs]; simp only; rw [h3]

/-! ### A bus write, by its address -/

/-- RAM after a bus write: its own cell below 0x2000, and no cell from there up (20_memory.md R73, R74). -/
theorem memWrite_ram_eq (a : Addr) (v : Byte) (s : State) :
    (memWrite a v s).ram = if a.toNat ≤ 0x1FFF then s.ram.write (a.toNat % 0x800) v else s.ram := by
  split
  · next h => rw [memWrite_ram h]; rfl
  · next h =>
    by_cases h1 : a.toNat ≤ 0x3FFF
    · rw [memWrite, State.setLatch_ram, route_ppu (by omega) h1]
      exact (ppuRegWrite_memories _ v s).1
    · by_cases h2 : a.toNat ≤ 0x401F
      · rw [memWrite, State.setLatch_ram, route_io (by omega) h2]
        simp only [ownerWrite, ioWrite]
        split
        · exact (oamDma_memories v s).1
        · split
          · rfl
          · split <;> rfl
      · rw [memWrite_cart (by omega)]; rfl

/-- The memories of the PPU after a bus write: its address space only through Data, OAM only through OAM data and a DMA. -/
theorem memWrite_memories (a : Addr) (v : Byte) (s : State) :
    (¬(0x2000 ≤ a.toNat ∧ a.toNat ≤ 0x3FFF ∧ a.toNat % 8 = 7) →
      (memWrite a v s).chrRam = s.chrRam ∧ (memWrite a v s).ppu.ciram = s.ppu.ciram ∧
      (memWrite a v s).ppu.palette = s.ppu.palette) ∧
    (¬(0x2000 ≤ a.toNat ∧ a.toNat ≤ 0x3FFF ∧ a.toNat % 8 = 4) → a ≠ 0x4014 →
      (memWrite a v s).ppu.oam = s.ppu.oam) := by
  by_cases h0 : a.toNat ≤ 0x1FFF
  · rw [memWrite_ram h0]; exact ⟨fun _ => ⟨rfl, rfl, rfl⟩, fun _ _ => rfl⟩
  by_cases h1 : a.toNat ≤ 0x3FFF
  · obtain ⟨-, -, ho, hd⟩ := ppuRegWrite_memories (PpuReg.ofSelect (a.toNat % 8)) v s
    obtain ⟨h4, h7⟩ := ofSelect_eq (Nat.mod_lt a.toNat (show 8 > 0 by decide))
    simp only [memWrite, State.setLatch_chrRam, State.setLatch_ppu, route_ppu (show 0x2000 ≤ a.toNat by omega) h1, ownerWrite]
    refine ⟨fun hn => hd (fun h => hn ⟨by omega, h1, h7.1 h⟩), fun hn _ => ho (fun h => hn ⟨by omega, h1, h4.1 h⟩)⟩
  by_cases h2 : a.toNat ≤ 0x401F
  · simp only [memWrite, State.setLatch_chrRam, State.setLatch_ppu, route_io (show 0x4000 ≤ a.toNat by omega) h2, ownerWrite,
      ioWrite]
    split
    · next h =>
      obtain ⟨-, hc, hi, hp, -⟩ := oamDma_memories v s
      exact ⟨fun _ => ⟨hc, hi, hp⟩, fun _ hn => absurd h hn⟩
    · split
      · exact ⟨fun _ => ⟨rfl, rfl, rfl⟩, fun _ _ => rfl⟩
      · split <;> exact ⟨fun _ => ⟨rfl, rfl, rfl⟩, fun _ _ => rfl⟩
  · rw [memWrite_cart (by omega)]; exact ⟨fun _ => ⟨rfl, rfl, rfl⟩, fun _ _ => rfl⟩

/-- The CPU after a bus write: as it was, or, at 0x4014, with a stall of 513 or 514. -/
theorem memWrite_cpu (a : Addr) (v : Byte) (s : State) :
    (memWrite a v s).cpu = s.cpu ∨
      (a = 0x4014 ∧ ((memWrite a v s).cpu = { s.cpu with dmaStall := 513 } ∨ (memWrite a v s).cpu = { s.cpu with dmaStall := 514 })) := by
  by_cases h0 : a.toNat ≤ 0x1FFF
  · rw [memWrite_ram h0]; exact .inl rfl
  by_cases h1 : a.toNat ≤ 0x3FFF
  · left
    rw [memWrite, State.setLatch_cpu, route_ppu (by omega) h1]
    exact (ppuRegWrite_memories _ v s).2.1
  by_cases h2 : a.toNat ≤ 0x401F
  · simp only [memWrite, State.setLatch_cpu, route_io (show 0x4000 ≤ a.toNat by omega) h2, ownerWrite, ioWrite]
    split
    · next h => exact .inr ⟨h, (oamDma_memories v s).2.2.2.2⟩
    · left
      split
      · rfl
      · split <;> rfl
  · rw [memWrite_cart (by omega)]; exact .inl rfl

/-- Outside the PPU registers and the I/O window a write changes RAM and the bus latch, and nothing else. -/
theorem memWrite_plain {a : Addr} (h : a.toNat < 0x2000 ∨ 0x4020 ≤ a.toNat) (v : Byte) (s : State) :
    memWrite a v s = { s with ram := (memWrite a v s).ram, io := { s.io with cpuBusLatch := v } } := by
  rcases h with h | h
  · rw [memWrite_ram (by omega)]; rfl
  · rw [memWrite_cart h]; rfl

/-! ### Sizes and the canonical form -/

/-- The memories a bus access works on keep their sizes. -/
structure MemoriesKept (s : State) : Prop where
  ram     : s.ram.fits 2048
  chrRam  : s.chrRam.fits 8192
  oam     : s.ppu.oam.fits 256
  ciram   : s.ppu.ciram.fits 2048
  palette : s.ppu.palette.fits 32

theorem ReadEffect.memoriesKept {s t : State} (e : ReadEffect s t) (h : MemoriesKept s) : MemoriesKept t where
  ram := by rw [e.ram]; exact h.ram
  chrRam := by rw [e.chrRam]; exact h.chrRam
  oam := by rw [e.ppu]; exact h.oam
  ciram := by rw [e.ppu]; exact h.ciram
  palette := by rw [e.ppu]; exact h.palette

theorem vramWrite_kept {s : State} (h : MemoriesKept s) (a : PpuAddr) (d : Byte) : MemoriesKept (vramWrite a d s) := by
  simp only [vramWrite]
  split
  · split
    · exact h
    · exact ⟨h.ram, Store.fits_write h.chrRam (by omega) d, h.oam, h.ciram, h.palette⟩
  · split
    · exact ⟨h.ram, h.chrRam, h.oam, Store.fits_write h.ciram (ntIndex_lt _ a) d, h.palette⟩
    · exact ⟨h.ram, h.chrRam, h.oam, h.ciram, Store.fits_write h.palette (palIndex_lt a) _⟩

theorem ppuRegWrite_kept {s : State} (h : MemoriesKept s) (r : PpuReg) (d : Byte) : MemoriesKept (ppuRegWrite r d s) := by
  obtain ⟨hr, -, ho, hd⟩ := ppuRegWrite_memories r d s
  cases r
  case data =>
    have k := vramWrite_kept (s := s.setPpu { s.ppu with ioLatch := d }) ⟨h.ram, h.chrRam, h.oam, h.ciram, h.palette⟩
      (s.setPpu { s.ppu with ioLatch := d }).ppu.dataAddr d
    exact ⟨k.ram, k.chrRam, k.oam, k.ciram, k.palette⟩
  case oamData => exact ⟨h.ram, h.chrRam, Store.fits_write h.oam s.ppu.oamAddr.isLt d, h.ciram, h.palette⟩
  all_goals
    have ho := ho (by simp)
    obtain ⟨hc, hi, hp⟩ := hd (by simp)
    exact ⟨hr ▸ h.ram, hc ▸ h.chrRam, ho ▸ h.oam, hi ▸ h.ciram, hp ▸ h.palette⟩

theorem oamDmaCopy_kept (d : Byte) (n i : Nat) {s : State} (h : MemoriesKept s) : MemoriesKept (oamDmaCopy d n i s) := by
  induction n generalizing i s with
  | zero => exact h
  | succ n ih =>
    have k := (memRead_effect (addrOf d (BitVec.ofNat 8 i)) s).memoriesKept h
    exact ih (i + 1) ⟨k.ram, k.chrRam, Store.fits_write k.oam (Nat.mod_lt _ (by decide)) _, k.ciram, k.palette⟩

theorem oamDma_kept {s : State} (h : MemoriesKept s) (d : Byte) : MemoriesKept (oamDma d s) := by
  unfold oamDma
  generalize hu : oamDmaCopy d 256 0 s = u
  have k : MemoriesKept u := hu ▸ oamDmaCopy_kept d 256 0 h
  have hs := dmaCycles_state u
  refine ⟨?_, ?_, ?_, ?_, ?_⟩ <;> simp only [State.setCpu_ram, State.setCpu_chrRam, State.setCpu_ppu] <;> rw [hs]
  exacts [k.ram, k.chrRam, k.oam, k.ciram, k.palette]

/-- A bus write keeps every memory canonical and within its size. -/
theorem memWrite_kept {s : State} (h : MemoriesKept s) (a : Addr) (v : Byte) : MemoriesKept (memWrite a v s) := by
  have k : MemoriesKept (ownerWrite (route a) v s) := by
    by_cases h0 : a.toNat ≤ 0x1FFF
    · rw [route_ram h0]
      exact ⟨Store.fits_write h.ram (mod_0x800_lt _) v, h.chrRam, h.oam, h.ciram, h.palette⟩
    by_cases h1 : a.toNat ≤ 0x3FFF
    · rw [route_ppu (by omega) h1]; exact ppuRegWrite_kept h _ v
    by_cases h2 : a.toNat ≤ 0x401F
    · rw [route_io (by omega) h2]
      simp only [ownerWrite, ioWrite]
      split
      · exact oamDma_kept h v
      · split
        · exact ⟨h.ram, h.chrRam, h.oam, h.ciram, h.palette⟩
        · split
          · exact ⟨h.ram, h.chrRam, h.oam, h.ciram, h.palette⟩
          · exact h
    · rw [route_cart (by omega)]; exact h
  exact ⟨k.ram, k.chrRam, k.oam, k.ciram, k.palette⟩

/-! ### OAM DMA (52_io_dma_controllers.md R402) -/

/-- The copy as a fold of its reads and stores, in rising order. -/
theorem oamDmaCopy_foldl (d : Byte) : ∀ (n i : Nat) (s : State), oamDmaCopy d n i s = (List.range' i n).foldl (fun u i =>
      let r := memRead (addrOf d (BitVec.ofNat 8 i)) u
      { r.2 with ppu := { r.2.ppu with oam := r.2.ppu.oam.write ((r.2.ppu.oamAddr.toNat + i) % 256) r.1 } }) s := by
  intro n
  induction n with
  | zero => intro i s; rfl
  | succ n ih => intro i s; rw [List.range'_succ, List.foldl_cons, oamDmaCopy, ih]; rfl

/-- The copy leaves the CPU, RAM, the parameters and the OAM cursor, whatever page it reads. -/
theorem oamDmaCopy_frame (d : Byte) : ∀ (n i : Nat) (s : State), (oamDmaCopy d n i s).cpu = s.cpu ∧
    (oamDmaCopy d n i s).ram = s.ram ∧ (oamDmaCopy d n i s).cfg = s.cfg ∧ (oamDmaCopy d n i s).ppu.oamAddr = s.ppu.oamAddr := by
  intro n
  induction n with
  | zero => intro i s; exact ⟨rfl, rfl, rfl, rfl⟩
  | succ n ih =>
    intro i s
    rw [oamDmaCopy]
    have e := memRead_effect (addrOf d (BitVec.ofNat 8 i)) s
    refine ⟨(ih _ _).1.trans ?_, (ih _ _).2.1.trans ?_, (ih _ _).2.2.1.trans ?_, (ih _ _).2.2.2.trans ?_⟩
    · exact e.cpu
    · exact e.ram
    · exact e.cfg
    · show (memRead (addrOf d (BitVec.ofNat 8 i)) s).2.ppu.oamAddr = _
      rw [e.ppu]

/-- From a page whose reads have no side effect (RAM or PRG): byte i of the page to OAM at oamAddr + i, and nothing else of OAM. -/
theorem oamDmaCopy_plain (d : Byte) (f : Nat → Byte) : ∀ (n i : Nat) (s : State), i + n ≤ 256 →
    (∀ j, i ≤ j → j < 256 → ∀ t : State, t.ram = s.ram → t.cart = s.cart → memRead (addrOf d (BitVec.ofNat 8 j)) t =
        (f j, t.setLatch (f j))) →
    ∃ oam, oamDmaCopy d n i s = { s with ppu := { s.ppu with oam := oam }, io := (oamDmaCopy d n i s).io } ∧
      (∀ j, j < n → oam.read ((s.ppu.oamAddr.toNat + (i + j)) % 256) = f (i + j)) ∧
      (∀ k, (∀ j, j < n → k ≠ (s.ppu.oamAddr.toNat + (i+j)) % 256) → oam.read k = s.ppu.oam.read k) := by
  intro n
  induction n with
  | zero => intro i s h _; exact ⟨s.ppu.oam, rfl, by simp, by simp⟩
  | succ n ih =>
    intro i s h hf
    rw [oamDmaCopy, hf i (Nat.le_refl _) (by omega) s rfl rfl]
    obtain ⟨oam, h1, h2, h3⟩ := ih (i+1) ((s.setLatch (f i)).setPpu
      { (s.setLatch (f i)).ppu with oam := s.ppu.oam.write ((s.ppu.oamAddr.toNat + i) % 256) (f i) })
      (by omega) (fun j hj hj' t ht ht' => hf j (by omega) hj' t ht ht')
    refine ⟨oam, ?_, ?_, ?_⟩
    · exact h1
    · intro j hj
      cases j with
      | zero =>
        rw [h3 _ (by intro j hj; simp; omega)]
        simp
      | succ j => have := h2 j (by omega); rw [show i + 1 + j = i + (j+1) by omega] at this; exact this
    · intro k hk
      rw [h3 k (fun j hj => by have := hk (j+1) (by omega); rw [show i + (j+1) = i + 1 + j by omega] at this; exact this)]
      simp only [State.setPpu_ppu]
      rw [Store.read_write_other _ _ (by have := hk 0 (by omega); simpa using this)]

end Sys2Proof.Machine
end

