-- ==== Sys2Proof/Laws/Operands.lean ====
section
/-! SUPPORT. What the four ways to use an operand do: the reads, the store, the read-modify-write and the branch. -/

namespace Sys2Proof.Machine

theorem resolve_effect (m : EaMode) (s : State) : ReadEffect s (resolve m s).2 := by
  rw [resolve_state]; exact ⟨rfl, rfl, rfl, rfl, rfl, rfl, rfl, rfl, rfl⟩

theorem ReadEffect.spend {s t : State} (h : ReadEffect s t) (n : Nat) : ReadEffect (s.spend n) (t.spend n) where
  cpu := by simp only [State.spend, State.setCpu_cpu, h.cpu]
  ram := h.ram
  chrRam := h.chrRam
  frames := h.frames
  cfg := h.cfg
  cart := h.cart
  out := h.out
  ppu := h.ppu
  io := h.io

/-- The cycles a read of an operand counts (30_encoding.md R117, 40_addressing_modes.md R155). -/
def operandCycles (o : ReadOperand) (s : State) : Nat :=
  match o with
  | .imm _ => 2
  | .mem m => readCycles m + (resolve m s).1.crossed.toNat

theorem readMem_effect (m : EaMode) (s : State) :
    ReadEffect (s.spend (operandCycles (.mem m) s)) (readMem m s).2 :=
  ((resolve_effect m s).spend _).trans (memRead_effect _ _)

/-- Reading an operand: its cycles, and what a bus read can change. -/
theorem readOperand_effect (o : ReadOperand) (s : State) : ReadEffect (s.spend (operandCycles o s)) (readOperand o s).2 := by
  cases o with
  | imm nn => exact .refl _
  | mem m => exact readMem_effect m s

/-- A read counts 2 to 6 cycles. -/
theorem operandCycles_bounds (o : ReadOperand) (s : State) : 2 ≤ operandCycles o s ∧ operandCycles o s ≤ 6 := by
  cases o with
  | imm nn => simp [operandCycles]
  | mem m =>
    cases m <;> simp only [operandCycles, readCycles, resolve, indexed]
    case abx base | aby base | izy zz => all_goals generalize (hiByte _ != hiByte _) = b; cases b <;> decide
    all_goals decide

/-- Outside the PPU registers and the I/O window, and for an immediate, a read leaves the PPU, and of the ports changes the bus
latch alone. -/
theorem readOperand_plain (o : ReadOperand) (s : State)
    (h : ∀ m, o = .mem m → (resolve m s).1.ea.toNat < 0x2000 ∨ 0x4020 ≤ (resolve m s).1.ea.toNat) :
    (readOperand o s).2.ppu = s.ppu ∧
    (readOperand o s).2.io = { s.io with cpuBusLatch := (readOperand o s).2.io.cpuBusLatch } := by
  cases o with
  | imm nn => exact ⟨rfl, rfl⟩
  | mem m =>
    simp only [readOperand, readMem]
    rw [memRead_plain (h m rfl)]
    constructor
    · simp only [State.spend_ppu]; rw [resolve_state]
    · simp only [State.spend_io]; rw [resolve_state]

/-- A store is one bus write after the cycles are counted. -/
theorem storeMem_eq (m : EaMode) (v : Byte) (s : State) :
    storeMem m v s = memWrite (resolve m s).1.ea v ((resolve m s).2.spend (storeCycles m)) := rfl

/-- A taken branch counts 3 or 4 cycles, one not taken 2; it writes PC and the counter alone (45_control_flow.md R240). -/
theorem branch_effect (cond : Bool) (oo : Byte) (s : State) :
    ∃ n, 2 ≤ n ∧ n ≤ 4 ∧ branch cond oo s =
      { s with cpu := { s.cpu with pc := (if cond then branchTarget s.cpu.pc oo else s.cpu.pc), cycles := s.cpu.cycles + n } } := by
  cases cond with
  | false => exact ⟨2, by omega, by omega, rfl⟩
  | true =>
    refine ⟨2 + 1 + (hiByte s.cpu.pc != hiByte (branchTarget s.cpu.pc oo)).toNat, by omega, ?_, rfl⟩
    cases (hiByte s.cpu.pc != hiByte (branchTarget s.cpu.pc oo)) <;> simp

end Sys2Proof.Machine
end

