-- ==== Sys2Proof/Laws/Exec.lean ====
section
/-! SUPPORT. All that executing an instruction can do, said once: it answers a next state, and what no instruction touches. -/

namespace Sys2Proof.Machine

/-- What every instruction leaves: the pending events, Break and Unused, the cartridge, the parameters, the frames, the PPU's
position and frame, the buttons; the cycle counter never falls; a stall is a DMA's; every memory keeps its size. -/
structure ExecEffect (s t : State) : Prop where
  kept    : MemoriesKept s → MemoriesKept t
  nmi     : t.cpu.nmiPending = s.cpu.nmiPending
  irq     : t.cpu.irqPending = s.cpu.irqPending
  reset   : t.cpu.resetPending = s.cpu.resetPending
  brk     : t.cpu.p.b = s.cpu.p.b
  unused  : t.cpu.p.u = s.cpu.p.u
  cycles  : s.cpu.cycles ≤ t.cpu.cycles
  stall   : t.cpu.dmaStall = s.cpu.dmaStall ∨ t.cpu.dmaStall = 513 ∨ t.cpu.dmaStall = 514
  frames  : t.frames = s.frames
  cfg     : t.cfg = s.cfg
  cart    : t.cart = s.cart
  shown   : t.out.presented = s.out.presented
  ppu     : t.ppu =
    { s.ppu with
      ctrl := t.ppu.ctrl, mask := t.ppu.mask, vblank := t.ppu.vblank, oamAddr := t.ppu.oamAddr, v := t.ppu.v, t := t.ppu.t
      x := t.ppu.x, w := t.ppu.w, readBuffer := t.ppu.readBuffer, ioLatch := t.ppu.ioLatch, oam := t.ppu.oam
      ciram := t.ppu.ciram, palette := t.ppu.palette, nmiRequest := t.ppu.nmiRequest }
  buttons : t.io.buttons1 = s.io.buttons1 ∧ t.io.buttons2 = s.io.buttons2

theorem ExecEffect.trans {s t u : State} (h : ExecEffect s t) (k : ExecEffect t u) : ExecEffect s u where
  kept := k.kept ∘ h.kept
  nmi := k.nmi.trans h.nmi
  irq := k.irq.trans h.irq
  reset := k.reset.trans h.reset
  brk := k.brk.trans h.brk
  unused := k.unused.trans h.unused
  cycles := h.cycles.trans k.cycles
  stall := by
    rcases k.stall with e | e | e
    · rw [e]; exact h.stall
    · exact .inr (.inl e)
    · exact .inr (.inr e)
  frames := k.frames.trans h.frames
  cfg := k.cfg.trans h.cfg
  cart := k.cart.trans h.cart
  shown := k.shown.trans h.shown
  ppu := by rw [k.ppu, h.ppu]
  buttons := ⟨k.buttons.1.trans h.buttons.1, k.buttons.2.trans h.buttons.2⟩

theorem WriteEffect.toExec {s t : State} (h : WriteEffect s t) (k : MemoriesKept s → MemoriesKept t)
    (c : t.cpu.dmaStall = s.cpu.dmaStall ∨ t.cpu.dmaStall = 513 ∨ t.cpu.dmaStall = 514) : ExecEffect s t where
  kept := k
  nmi := by rw [h.cpu]
  irq := by rw [h.cpu]
  reset := by rw [h.cpu]
  brk := by rw [h.cpu]
  unused := by rw [h.cpu]
  cycles := by rw [h.cpu]
  stall := c
  frames := h.frames
  cfg := h.cfg
  cart := h.cart
  shown := by rw [h.out]
  ppu := h.ppu
  buttons := by rw [h.io]; exact ⟨rfl, rfl⟩

theorem ReadEffect.toExec {s t : State} (h : ReadEffect s t) : ExecEffect s t :=
  h.toWrite.toExec h.memoriesKept (.inl (by rw [h.cpu]))

theorem memWrite_exec (a : Addr) (v : Byte) (s : State) : ExecEffect s (memWrite a v s) := by
  refine (memWrite_effect a v s).toExec (fun h => memWrite_kept h a v) ?_
  rcases memWrite_cpu a v s with h | ⟨-, h | h⟩ <;> rw [h]
  · exact .inl rfl
  · exact .inr (.inl rfl)
  · exact .inr (.inr rfl)

/-- A change of the CPU that leaves the pending events, Break, Unused and the stall, and adds to the counter. -/
theorem ExecEffect.ofCpu (s : State) (c : Cpu) (h1 : c.nmiPending = s.cpu.nmiPending) (h2 : c.irqPending = s.cpu.irqPending)
    (h3 : c.resetPending = s.cpu.resetPending) (h4 : c.p.b = s.cpu.p.b) (h5 : c.p.u = s.cpu.p.u)
    (h6 : s.cpu.cycles ≤ c.cycles) (h7 : c.dmaStall = s.cpu.dmaStall) : ExecEffect s (s.setCpu c) where
  kept := fun h => ⟨h.ram, h.chrRam, h.oam, h.ciram, h.palette⟩
  nmi := h1
  irq := h2
  reset := h3
  brk := h4
  unused := h5
  cycles := h6
  stall := .inl h7
  frames := rfl
  cfg := rfl
  cart := rfl
  shown := rfl
  ppu := rfl
  buttons := ⟨rfl, rfl⟩

theorem spend_exec (n : Nat) (s : State) : ExecEffect s (s.spend n) :=
  .ofCpu s _ rfl rfl rfl rfl rfl (Nat.le_add_right _ _) rfl

theorem readMem_exec (m : EaMode) (s : State) : ExecEffect s (readMem m s).2 :=
  (spend_exec _ s).trans (readMem_effect m s).toExec

theorem readOperand_exec (o : ReadOperand) (s : State) : ExecEffect s (readOperand o s).2 :=
  (spend_exec _ s).trans (readOperand_effect o s).toExec

theorem storeMem_exec (m : EaMode) (v : Byte) (s : State) : ExecEffect s (storeMem m v s) :=
  (resolve_effect m s).toExec.trans ((spend_exec _ _).trans (memWrite_exec _ _ _))

/-- A change of flags that leaves Break and Unused. -/
def FlagsKept (f : Byte → Flags → Byte × Flags) : Prop := ∀ v p, (f v p).2.b = p.b ∧ (f v p).2.u = p.u

theorem modifyMem_exec (m : EaMode) {f : Byte → Flags → Byte × Flags} (hf : FlagsKept f) (s : State) :
    ExecEffect s (modifyMem m f s) := by
  have h1 : ExecEffect s (memRead (resolve m s).1.ea ((resolve m s).2.spend (modifyCycles m))).2 :=
    (resolve_effect m s).toExec.trans ((spend_exec _ _).trans (memRead_effect _ _).toExec)
  generalize hv : memRead (resolve m s).1.ea ((resolve m s).2.spend (modifyCycles m)) = v at h1
  have h2 := memWrite_exec (resolve m s).1.ea (f v.1 v.2.cpu.p).1 v.2
  simp only [modifyMem, hv]
  have hcpu := (memWrite_effect (resolve m s).1.ea (f v.1 v.2.cpu.p).1 v.2).cpu
  refine h1.trans (h2.trans (.ofCpu _ _ rfl rfl rfl ?_ ?_ (Nat.le_refl _) rfl))
  · simp only; rw [(hf v.1 v.2.cpu.p).1, hcpu]
  · simp only; rw [(hf v.1 v.2.cpu.p).2, hcpu]

theorem modifyAcc_exec {f : Byte → Flags → Byte × Flags} (hf : FlagsKept f) (s : State) : ExecEffect s (modifyAcc f s) :=
  .ofCpu s { s.cpu with cycles := s.cpu.cycles + 2, a := (f s.cpu.a s.cpu.p).1, p := (f s.cpu.a s.cpu.p).2 } rfl rfl rfl
    (hf s.cpu.a s.cpu.p).1 (hf s.cpu.a s.cpu.p).2 (Nat.le_add_right _ _) rfl

theorem modifyOperand_exec (o : ShiftOperand) {f : Byte → Flags → Byte × Flags} (hf : FlagsKept f) (s : State) :
    ExecEffect s (modifyOperand o f s) := by
  cases o with
  | acc => exact modifyAcc_exec hf s
  | mem m => exact modifyMem_exec m hf s

theorem branch_exec (cond : Bool) (oo : Byte) (s : State) : ExecEffect s (branch cond oo s) := by
  obtain ⟨n, -, -, h⟩ := branch_effect cond oo s
  rw [h]
  exact .ofCpu s { s.cpu with pc := (if cond then branchTarget s.cpu.pc oo else s.cpu.pc), cycles := s.cpu.cycles + n }
    rfl rfl rfl rfl rfl (Nat.le_add_right _ _) rfl

theorem setSp_exec (v : Byte) (s : State) : ExecEffect s (s.setSp v) := .ofCpu s _ rfl rfl rfl rfl rfl (Nat.le_refl _) rfl
theorem setPc_exec (v : Addr) (s : State) : ExecEffect s (s.setPc v) := .ofCpu s _ rfl rfl rfl rfl rfl (Nat.le_refl _) rfl
theorem setZN_exec (v : Byte) (s : State) : ExecEffect s (s.setZN v) := .ofCpu s _ rfl rfl rfl rfl rfl (Nat.le_refl _) rfl
theorem setA_exec (v : Byte) (s : State) : ExecEffect s (s.setA v) := .ofCpu s _ rfl rfl rfl rfl rfl (Nat.le_refl _) rfl
theorem setX_exec (v : Byte) (s : State) : ExecEffect s (s.setX v) := .ofCpu s _ rfl rfl rfl rfl rfl (Nat.le_refl _) rfl
theorem setY_exec (v : Byte) (s : State) : ExecEffect s (s.setY v) := .ofCpu s _ rfl rfl rfl rfl rfl (Nat.le_refl _) rfl

theorem setP_exec (s : State) (p : Flags) (h : p.b = s.cpu.p.b) (h' : p.u = s.cpu.p.u) : ExecEffect s (s.setP p) :=
  .ofCpu s _ rfl rfl rfl h h' (Nat.le_refl _) rfl

theorem push_exec (v : Byte) (s : State) : ExecEffect s (push v s) := (memWrite_exec _ v s).trans (setSp_exec _ _)
theorem pull_exec (s : State) : ExecEffect s (pull s).2 := (setSp_exec _ s).trans (memRead_effect _ _).toExec
theorem pushWord_exec (a : Addr) (s : State) : ExecEffect s (pushWord a s) := (push_exec _ s).trans (push_exec _ _)
theorem pullWord_exec (s : State) : ExecEffect s (pullWord s).2 := (pull_exec s).trans (pull_exec _)

theorem read16_exec (a : Addr) (s : State) : ExecEffect s (read16 a s).2 :=
  ((memRead_effect a s).trans (memRead_effect _ _)).toExec

theorem enterInterrupt_exec (ret : Addr) (brk : Bool) (vector : Addr) (s : State) :
    ExecEffect s (enterInterrupt ret brk vector s) := by
  simp only [enterInterrupt]
  generalize h : push ((pushWord ret s).cpu.p.pushByte brk) (pushWord ret s) = u
  have h1 : ExecEffect s u := h ▸ (pushWord_exec ret s).trans (push_exec _ _)
  exact h1.trans ((setP_exec u { u.cpu.p with i := true } rfl rfl).trans ((read16_exec vector _).trans (setPc_exec _ _)))

theorem returnFromInterrupt_exec (s : State) : ExecEffect s (returnFromInterrupt s) := by
  simp only [returnFromInterrupt]
  exact (pull_exec s).trans ((setP_exec _ ((pull s).2.cpu.p.restore (pull s).1) rfl rfl).trans
    ((pullWord_exec _).trans (setPc_exec _ _)))

theorem recordAnomaly_exec (op : Byte) (s : State) : ExecEffect s (recordAnomaly op s) where
  kept := fun h => ⟨h.ram, h.chrRam, h.oam, h.ciram, h.palette⟩
  nmi := rfl
  irq := rfl
  reset := rfl
  brk := rfl
  unused := rfl
  cycles := Nat.le_refl _
  stall := .inl rfl
  frames := rfl
  cfg := rfl
  cart := rfl
  shown := rfl
  ppu := rfl
  buttons := ⟨rfl, rfl⟩

theorem illegalOpcode_exec (op : Byte) (s : State) : ExecEffect s (illegalOpcode op s) := by
  simp only [illegalOpcode]
  refine (recordAnomaly_exec op s).trans ?_
  split
  · exact spend_exec 1 _
  · exact .ofCpu _ _ rfl rfl rfl rfl rfl (Nat.le_refl _) rfl

theorem load_exec {set : State → Byte → State} (hs : ∀ v s, ExecEffect s (set s v)) (o : ReadOperand) (s : State) :
    ExecEffect s (load set o s) := (readOperand_exec o s).trans ((hs _ _).trans (setZN_exec _ _))

theorem transfer_exec {set : State → Byte → State} (hs : ∀ v s, ExecEffect s (set s v)) (v : Byte) (s : State) :
    ExecEffect s (transfer set v s) := (spend_exec 2 s).trans ((hs v _).trans (setZN_exec v _))

theorem arith_exec (f : Params → Flags → Byte → Byte → AluResult) (o : ReadOperand) (s : State) : ExecEffect s (arith f o s) :=
  (readOperand_exec o s).trans ((setA_exec _ _).trans (setP_exec _ _ rfl rfl))

theorem compare_exec (reg : Byte) (o : ReadOperand) (s : State) : ExecEffect s (compare reg o s) :=
  (readOperand_exec o s).trans (setP_exec _ _ rfl rfl)

theorem logic_exec (f : Byte → Byte → Byte) (o : ReadOperand) (s : State) : ExecEffect s (logic f o s) :=
  (readOperand_exec o s).trans ((setA_exec _ _).trans (setZN_exec _ _))

theorem writeFlag_exec {f : Flags → Flags} (h : ∀ p, (f p).b = p.b ∧ (f p).u = p.u) (s : State) : ExecEffect s (writeFlag f s) :=
  (spend_exec 2 s).trans (setP_exec _ _ (h _).1 (h _).2)

/-- Every instruction answers a next state, and does no more than `ExecEffect` says. -/
theorem exec_effect (i : Instr) (s : State) : ∃ t, exec i s = .next t ∧ ExecEffect s t := by
  cases i with
  | lda o => exact ⟨_, rfl, load_exec setA_exec o s⟩
  | ldx o => exact ⟨_, rfl, load_exec setX_exec o s⟩
  | ldy o => exact ⟨_, rfl, load_exec setY_exec o s⟩
  | sta m | stx m | sty m => exact ⟨_, rfl, storeMem_exec m _ s⟩
  | tax | tsx => exact ⟨_, rfl, transfer_exec setX_exec _ s⟩
  | tay => exact ⟨_, rfl, transfer_exec setY_exec _ s⟩
  | txa | tya => exact ⟨_, rfl, transfer_exec setA_exec _ s⟩
  | txs => exact ⟨_, rfl, (spend_exec 2 s).trans (setSp_exec _ _)⟩
  | php | pha => exact ⟨_, rfl, (spend_exec 3 s).trans (push_exec _ _)⟩
  | pla => exact ⟨_, rfl, (spend_exec 4 s).trans ((pull_exec _).trans ((setA_exec _ _).trans (setZN_exec _ _)))⟩
  | plp => exact ⟨_, rfl, (spend_exec 4 s).trans ((pull_exec _).trans (setP_exec _ _ rfl rfl))⟩
  | adc o | sbc o => exact ⟨_, rfl, arith_exec _ o s⟩
  | cmp o | cpx o | cpy o => exact ⟨_, rfl, compare_exec _ o s⟩
  | inc m | dec m => exact ⟨_, rfl, modifyMem_exec m (fun _ _ => ⟨rfl, rfl⟩) s⟩
  | inx | dex => exact ⟨_, rfl, transfer_exec setX_exec _ s⟩
  | iny | dey => exact ⟨_, rfl, transfer_exec setY_exec _ s⟩
  | and o | ora o | eor o => exact ⟨_, rfl, logic_exec _ o s⟩
  | bit m => exact ⟨_, rfl, (readMem_exec m s).trans (setP_exec _ _ rfl rfl)⟩
  | asl o | lsr o | rol o | ror o => exact ⟨_, rfl, modifyOperand_exec o (fun _ _ => ⟨rfl, rfl⟩) s⟩
  | bcc oo | bcs oo | beq oo | bmi oo | bne oo | bpl oo | bvc oo | bvs oo => exact ⟨_, rfl, branch_exec _ oo s⟩
  | jmp target => exact ⟨_, rfl, (spend_exec 3 s).trans (setPc_exec _ _)⟩
  | jmpInd p => exact ⟨_, rfl, (spend_exec 5 s).trans ((read16InPage_effect _ _ _).toExec.trans (setPc_exec _ _))⟩
  | jsr target => exact ⟨_, rfl, (spend_exec 6 s).trans ((pushWord_exec _ _).trans (setPc_exec _ _))⟩
  | rts => exact ⟨_, rfl, (spend_exec 6 s).trans ((pullWord_exec _).trans (setPc_exec _ _))⟩
  | clc | cld | cli | clv | sec | sed | sei => exact ⟨_, rfl, writeFlag_exec (f := _) (by exact fun _ => ⟨rfl, rfl⟩) s⟩
  | nop => exact ⟨_, rfl, spend_exec 2 s⟩
  | brk => exact ⟨_, rfl, (spend_exec 7 s).trans (enterInterrupt_exec _ _ _ _)⟩
  | rti => exact ⟨_, rfl, (spend_exec 6 s).trans (returnFromInterrupt_exec _)⟩
  | illegal op => exact ⟨_, rfl, illegalOpcode_exec op s⟩

end Sys2Proof.Machine
end

