-- ==== Sys2Proof/Laws/Ppu.lean ====
section
/-! SUPPORT. The dot step in its seven stages: what each can change, and that each keeps the PPU's ranges and sizes. -/

namespace Sys2Proof.Machine

/-! ### The PPU memory (20_memory.md R90 to R93) -/

/-- A nametable cell, by the address alone (20_memory.md R92). -/
theorem ntIndex_eq (m : Mirroring) (a : PpuAddr) (h : 0x2000 ≤ a.toNat) :
    ntIndex m a = (if m = .horizontal then a.toNat % 0x1000 / 0x800 else a.toNat % 0x800 / 0x400) * 0x400 + a.toNat % 0x400 := by
  cases m <;> simp only [ntIndex, if_true, reduceCtorEq, if_false] <;> omega

/-- A palette entry, by the address alone (R93). -/
theorem palIndex_eq (a : PpuAddr) : palIndex a = if a.toNat % 4 = 0 then a.toNat % 16 else a.toNat % 32 := by
  simp only [palIndex]; split <;> split <;> omega

/-- A read below the palette (R90). -/
theorem vramRead_eq (e : PpuEnv) (p : Ppu) (ob : Byte) (a : PpuAddr) (h : a.toNat < 0x3F00) :
    vramRead e p ob a = if a.toNat ≤ 0x1FFF then e.chrRead a else p.ciram.read (ntIndex e.cart.mirroring a) := by
  simp only [vramRead]
  split
  · rfl
  · rw [if_pos (by omega)]

/-! ### The position -/

/-- The position after the counters move, and the frame flag (51_ppu_timing_rendering.md R351). -/
theorem advanceDot_eq (p : Ppu) :
    advanceDot p =
      { p with
        dot := if p.dot + 1 = 341 then 0 else p.dot + 1
        scanline := if p.dot + 1 = 341 then (if p.scanline + 1 = 262 then 0 else p.scanline + 1) else p.scanline
        frameReady := p.frameReady || (p.dot + 1 = 341 ∧ p.scanline + 1 = 262)
        fbOut := if p.dot + 1 = 341 ∧ p.scanline + 1 = 262 then p.fb else p.fbOut } := by
  simp only [advanceDot, frameWrap]
  by_cases h1 : p.dot + 1 = 341 <;> by_cases h2 : p.scanline + 1 = 262 <;> simp [h1, h2]

/-! ### What each stage changes -/

theorem dotPixel_eq (e : PpuEnv) (p : Ppu) :
    dotPixel e p = { p with fb := (dotPixel e p).fb, sprite0Hit := (dotPixel e p).sprite0Hit } := by
  simp only [dotPixel]
  split
  · simp only [renderPixel]; split <;> rfl
  · rfl

theorem dotVblank_eq (p : Ppu) :
    dotVblank p =
      { p with
        vblank := p.vblank || (p.scanline = 241 ∧ p.dot = 1)
        nmiRequest := p.nmiRequest || (decide (p.scanline = 241 ∧ p.dot = 1) && p.ctrl.getLsbD 7) } := by
  simp only [dotVblank, vblankStart]
  split
  · next h => simp [h]
  · next h => simp [h]

theorem dotClear_eq (e : PpuEnv) (p : Ppu) :
    dotClear e p =
      { p with
        vblank := p.vblank && !(p.scanline = 261 ∧ p.dot = e.cfg.preRenderClearDot)
        sprite0Hit := p.sprite0Hit && !(p.scanline = 261 ∧ p.dot = e.cfg.preRenderClearDot)
        spriteOverflow := p.spriteOverflow && !(p.scanline = 261 ∧ p.dot = e.cfg.preRenderClearDot) } := by
  simp only [dotClear, preRenderClear]
  split
  · next h => simp [h]
  · next h => simp [h]

theorem dotScroll_eq (p : Ppu) : dotScroll p = { p with v := (dotScroll p).v, oamAddr := (dotScroll p).oamAddr } := by
  simp only [dotScroll]
  split <;> rfl

theorem evaluateSprites_eq (e : PpuEnv) (s : Nat) (p : Ppu) :
    evaluateSprites e s p =
      { p with lineSprites := (evaluateSprites e s p).lineSprites, spriteOverflow := (evaluateSprites e s p).spriteOverflow } := by
  simp only [evaluateSprites]
  split <;> rfl

theorem dotSprites_eq (e : PpuEnv) (p : Ppu) :
    dotSprites e p = { p with lineSprites := (dotSprites e p).lineSprites, spriteOverflow := (dotSprites e p).spriteOverflow } := by
  simp only [dotSprites]
  split
  · exact evaluateSprites_eq e p.scanline p
  · rfl

theorem dotLatch_eq (p : Ppu) :
    dotLatch p = { p with lineScroll := (dotLatch p).lineScroll, lineFineX := (dotLatch p).lineFineX } := by
  simp only [dotLatch, latchLineScroll]
  split <;> rfl

/-- What the stages after the counters leave: the position, the frame hand-off, the memories, the registers the CPU writes. -/
structure DotEffect (p q : Ppu) : Prop where
  eq : q =
    { p with
      fb := q.fb, vblank := q.vblank, sprite0Hit := q.sprite0Hit, spriteOverflow := q.spriteOverflow, nmiRequest := q.nmiRequest
      v := q.v, oamAddr := q.oamAddr, lineSprites := q.lineSprites, lineScroll := q.lineScroll, lineFineX := q.lineFineX }

theorem DotEffect.trans {p q r : Ppu} (h : DotEffect p q) (k : DotEffect q r) : DotEffect p r := ⟨by rw [k.eq, h.eq]⟩

theorem dotPixel_effect (e : PpuEnv) (p : Ppu) : DotEffect p (dotPixel e p) := ⟨by rw [dotPixel_eq]⟩
theorem dotVblank_effect (p : Ppu) : DotEffect p (dotVblank p) := ⟨by rw [dotVblank_eq]⟩
theorem dotClear_effect (e : PpuEnv) (p : Ppu) : DotEffect p (dotClear e p) := ⟨by rw [dotClear_eq]⟩
theorem dotScroll_effect (p : Ppu) : DotEffect p (dotScroll p) := ⟨by rw [dotScroll_eq]⟩
theorem dotSprites_effect (e : PpuEnv) (p : Ppu) : DotEffect p (dotSprites e p) := ⟨by rw [dotSprites_eq]⟩
theorem dotLatch_effect (p : Ppu) : DotEffect p (dotLatch p) := ⟨by rw [dotLatch_eq]⟩

/-- A dot is the move of the counters and then no more than `DotEffect`. -/
theorem ppuStep_effect (e : PpuEnv) (p : Ppu) : DotEffect (advanceDot p) (ppuStep e p) :=
  (dotPixel_effect e _).trans ((dotVblank_effect _).trans ((dotClear_effect e _).trans ((dotScroll_effect _).trans
    ((dotSprites_effect e _).trans (dotLatch_effect _)))))

/-- The position a dot reaches is the next one. -/
theorem ppuStep_position (e : PpuEnv) (p : Ppu) :
    (ppuStep e p).scanline = (advanceDot p).scanline ∧ (ppuStep e p).dot = (advanceDot p).dot ∧
    (ppuStep e p).frameReady = (advanceDot p).frameReady := by
  have h := (ppuStep_effect e p).eq
  exact ⟨by rw [h], by rw [h], by rw [h]⟩

/-! ### Sprite evaluation -/

/-- The latches hold at most eight sprites, all of OAM (51_ppu_timing_rendering.md R371). -/
theorem collectSprites_bounds (e : PpuEnv) (p : Ppu) (s h fuel n : Nat) (found : List SpriteLatch) (hf : found.length ≤ 8)
    (hn : ∀ l ∈ found, l.n ≤ 63) (hb : n + fuel ≤ 64) :
    (collectSprites e p s h fuel n found).1.length ≤ 8 ∧ ∀ l ∈ (collectSprites e p s h fuel n found).1, l.n ≤ 63 := by
  induction fuel generalizing n found with
  | zero => exact ⟨hf, hn⟩
  | succ fuel ih =>
    simp only [collectSprites]
    split
    · exact ⟨hf, hn⟩
    · next h8 =>
      split
      · refine ih (n + 1) _ ?_ ?_ (by omega)
        · simp; omega
        · intro l hl
          rcases List.mem_append.1 hl with hl | hl
          · exact hn l hl
          · rw [List.mem_singleton.1 hl]; simp only [latchSprite]; omega
      · exact ih (n + 1) found hf hn (by omega)

theorem evaluateSprites_bounds (e : PpuEnv) (s : Nat) (p : Ppu) :
    (evaluateSprites e s p).lineSprites.length ≤ 8 ∧ ∀ l ∈ (evaluateSprites e s p).lineSprites, l.n ≤ 63 := by
  simp only [evaluateSprites]
  split
  · simp
  · exact collectSprites_bounds e p s p.spriteHeight 64 0 [] (by simp) (by simp) (by omega)

/-! ### The ranges and sizes of R48 to R54 -/

/-- A dot keeps the PPU's ranges and sizes. -/
theorem ppuStep_kept (e : PpuEnv) {p : Ppu} (h : p.Kept) : (ppuStep e p).Kept := by
  have h1 : (advanceDot p).Kept := by
    have hs := h.scanline
    have hd := h.dot
    rw [advanceDot_eq]
    refine ⟨?_, ?_, h.sprites, h.spriteIds, h.oam, h.ciram, h.palette, h.fb, ?_⟩
    · simp only; split
      · split <;> omega
      · omega
    · simp only; split <;> omega
    · simp only; split
      · exact h.fb
      · exact h.fbOut
  have h2 : (dotPixel e (advanceDot p)).Kept := by
    generalize advanceDot p = q at h1
    rw [dotPixel_eq]
    refine ⟨h1.scanline, h1.dot, h1.sprites, h1.spriteIds, h1.oam, h1.ciram, h1.palette, ?_, h1.fbOut⟩
    simp only [dotPixel]
    split
    · next hv =>
      have hcell : 256 * q.scanline + (q.dot - 1) < 61440 := by omega
      simp only [renderPixel]
      split <;> exact Store.fits_write h1.fb hcell _
    · exact h1.fb
  have h3 : (dotClear e (dotVblank (dotPixel e (advanceDot p)))).Kept := by
    generalize dotPixel e (advanceDot p) = q at h2
    rw [dotClear_eq, dotVblank_eq]
    exact ⟨h2.scanline, h2.dot, h2.sprites, h2.spriteIds, h2.oam, h2.ciram, h2.palette, h2.fb, h2.fbOut⟩
  have h4 : (dotScroll (dotClear e (dotVblank (dotPixel e (advanceDot p))))).Kept := by
    generalize dotClear e (dotVblank (dotPixel e (advanceDot p))) = q at h3
    rw [dotScroll_eq]
    exact ⟨h3.scanline, h3.dot, h3.sprites, h3.spriteIds, h3.oam, h3.ciram, h3.palette, h3.fb, h3.fbOut⟩
  have h5 : (dotSprites e (dotScroll (dotClear e (dotVblank (dotPixel e (advanceDot p)))))).Kept := by
    generalize dotScroll (dotClear e (dotVblank (dotPixel e (advanceDot p)))) = q at h4
    have hb : (dotSprites e q).lineSprites.length ≤ 8 ∧ ∀ l ∈ (dotSprites e q).lineSprites, l.n ≤ 63 := by
      simp only [dotSprites]
      split
      · exact evaluateSprites_bounds e q.scanline q
      · exact ⟨h4.sprites, h4.spriteIds⟩
    rw [dotSprites_eq]
    exact ⟨h4.scanline, h4.dot, hb.1, hb.2, h4.oam, h4.ciram, h4.palette, h4.fb, h4.fbOut⟩
  simp only [ppuStep]
  generalize dotSprites e (dotScroll (dotClear e (dotVblank (dotPixel e (advanceDot p))))) = q at h5
  rw [dotLatch_eq]
  exact ⟨h5.scanline, h5.dot, h5.sprites, h5.spriteIds, h5.oam, h5.ciram, h5.palette, h5.fb, h5.fbOut⟩

/-- Any number of dots keeps the PPU's ranges and sizes. -/
theorem ppuRun_kept (e : PpuEnv) (n : Nat) {p : Ppu} (h : p.Kept) : (ppuRun e n p).Kept := by
  induction n generalizing p with
  | zero => exact h
  | succ n ih => exact ih (ppuStep_kept e h)

/-- Evaluation takes the in-range sprites in OAM order, the first eight of them. -/
theorem collectSprites_ids (e : PpuEnv) (p : Ppu) (s h : Nat) : ∀ (fuel n : Nat) (found : List SpriteLatch), found.length ≤ 8 →
    (collectSprites e p s h fuel n found).1.map (fun l => l.n) =
      (found.map (fun l => l.n) ++ (List.range' n fuel).filter (fun n => spriteInRange s h (p.oam.read (4 * n)))).take 8 := by
  intro fuel
  induction fuel with
  | zero => intro n found hf; simp [collectSprites, List.take_of_length_le, hf]
  | succ fuel ih =>
    intro n found hf
    simp only [collectSprites]
    split
    · next h8 => simp only; rw [List.take_append_of_le_length (by simp [h8]), List.take_of_length_le (by simp [h8])]
    · next h8 =>
      rw [List.range'_succ, List.filter_cons]
      split
      · next hin =>
        rw [ih _ _ (by simp; omega)]; simp [latchSprite]
      · next hin => rw [ih _ _ hf]

end Sys2Proof.Machine
end

