-- ==== Sys2Proof/Laws/Iterate.lean ====
section
/-! SUPPORT. The parts of an iteration: the fetch, the interrupt services, and what follows the CPU step. -/

namespace Sys2Proof.Machine

theorem fetchByte_exec (s : State) : ExecEffect s (fetchByte s).2 := (memRead_effect _ s).toExec.trans (setPc_exec _ _)

/-- A fetch counts no cycles and leaves the stall. -/
theorem fetchByte_cpu (s : State) : (fetchByte s).2.cpu = { s.cpu with pc := s.cpu.pc + 1 } := by
  simp only [fetchByte, State.setPc, State.setCpu_cpu, (memRead_effect s.cpu.pc s).cpu]

theorem fetchInstr_exec (s : State) : ExecEffect s (fetchInstr s).2 := by
  simp only [fetchInstr]
  split
  · exact fetchByte_exec s
  · exact (fetchByte_exec s).trans (fetchByte_exec _)
  · exact (fetchByte_exec s).trans ((fetchByte_exec _).trans (fetchByte_exec _))

/-- PC moves past the instruction, and nothing else of the CPU changes (30_encoding.md R114). -/
theorem fetchInstr_cpu (s : State) : ∃ n : Addr, (fetchInstr s).2.cpu = { s.cpu with pc := n } := by
  simp only [fetchInstr]
  split
  · exact ⟨_, fetchByte_cpu s⟩
  · exact ⟨_, by rw [fetchByte_cpu, fetchByte_cpu]⟩
  · exact ⟨_, by rw [fetchByte_cpu, fetchByte_cpu, fetchByte_cpu]⟩

theorem plainByte_some {s : State} {a : Addr} {b : Byte} (h : plainByte s a = some b) : memRead a s = (b, s.setLatch b) := by
  by_cases h0 : a.toNat ≤ 0x1FFF
  · rw [plainByte, route_ram h0] at h
    injection h with h
    rw [memRead_ram h0, h]
  · by_cases h1 : a.toNat ≤ 0x3FFF
    · rw [plainByte, route_ppu (by omega) h1] at h; contradiction
    · by_cases h2 : a.toNat ≤ 0x401F
      · rw [plainByte, route_io (by omega) h2] at h; contradiction
      · rw [plainByte, route_cart (by omega)] at h
        simp only at h
        split at h
        · next h8 => injection h with h; rw [memRead_prg h8, h]
        · contradiction

/-- The two vectors are in PRG. -/
theorem vector_bounds {vector : Addr} (h : vector = 0xFFFA ∨ vector = 0xFFFE) :
    0x8000 ≤ vector.toNat ∧ vector.toNat < 0xFFFF := by
  rcases h with rfl | rfl <;> decide

/-- Reset, whole (70_reset_and_hazards.md R490): the CPU alone changes, the bus latch is kept (log 23). -/
theorem resetAction_eq (s : State) :
    resetAction s =
      { s with
        cpu := { s.cpu with
          pc := addrOf (s.cart.prgByte 0xFFFD) (s.cart.prgByte 0xFFFC)
          sp := 0xFD
          p := { s.cpu.p with i := true, u := true }
          cycles := 0
          resetPending := false
          nmiPending := false
          irqPending := false
          dmaStall := 0 } } := by
  simp only [resetAction, resetVector, read16_prg (a := 0xFFFC) (by decide) (by decide)]
  rfl

theorem settleStall_exec_fields (s : State) :
    settleStall s = { s with cpu := { s.cpu with cycles := s.cpu.cycles + s.cpu.dmaStall, dmaStall := 0 } } := rfl

theorem handOff_memories (s : State) :
    (handOff s).ram = s.ram ∧ (handOff s).chrRam = s.chrRam ∧ (handOff s).cart = s.cart ∧ (handOff s).cfg = s.cfg ∧
    (handOff s).cpu = s.cpu ∧ (handOff s).ppu = { s.ppu with frameReady := false } := by
  simp only [handOff]
  split
  · exact ⟨rfl, rfl, rfl, rfl, rfl, rfl⟩
  · next h =>
    refine ⟨rfl, rfl, rfl, rfl, rfl, ?_⟩
    have : s.ppu.frameReady = false := by simpa using h
    rw [← this]

theorem deliverNmi_eq (s : State) :
    deliverNmi s =
      { s with
        cpu := { s.cpu with nmiPending := s.cpu.nmiPending || s.ppu.nmiRequest }, ppu := { s.ppu with nmiRequest := false } } := by
  simp only [deliverNmi]
  split
  · next h => simp [h]
  · next h =>
    have : s.ppu.nmiRequest = false := by simpa using h
    simp [this]
    rw [← this]

/-- After the CPU step: the PPU has run its dots, both requests are taken, and of the CPU only the pending flags change. -/
theorem afterCpu_fields (c : Nat) (s : State) :
    (afterCpu c s).ppu = { ppuRun s.env (3 * c) s.ppu with frameReady := false, nmiRequest := false } ∧
    (afterCpu c s).cpu =
      { s.cpu with nmiPending := (afterCpu c s).cpu.nmiPending, irqPending := (afterCpu c s).cpu.irqPending } ∧
    (afterCpu c s).ram = s.ram ∧ (afterCpu c s).chrRam = s.chrRam ∧ (afterCpu c s).cart = s.cart ∧ (afterCpu c s).cfg = s.cfg := by
  obtain ⟨h1, h2, h3, h4, h5, h6⟩ := handOff_memories (runDots c s)
  simp only [afterCpu, sampleIrq, deliverNmi_eq, State.setCpu_ppu, State.nextDraw_ppu, State.setCpu_cpu, State.setCpu_ram,
    State.nextDraw_ram, State.setCpu_chrRam, State.nextDraw_chrRam, State.setCpu_cart, State.nextDraw_cart, State.setCpu_cfg,
    State.nextDraw_cfg, h1, h2, h3, h4, h5, h6]
  exact ⟨rfl, rfl, rfl, rfl, rfl, rfl⟩

/-- All a step can do: a reset, an interrupt service or one instruction, and then what follows a CPU step. -/
theorem step_cases {s t : State} (h : step s = .next t) :
    (stepKind s.cpu = .reset ∧ t = afterCpu 0 (resetAction s)) ∨
    (stepKind s.cpu = .nmi ∧ t = afterCpu 7 (serviceNmi s)) ∨
    (stepKind s.cpu = .irq ∧ t = afterCpu 7 (serviceIrq s)) ∨
    (stepKind s.cpu = .instruction ∧
      ∃ u, ExecEffect s u ∧ t = afterCpu ((settleStall u).cpu.cycles - s.cpu.cycles) (settleStall u)) := by
  simp only [step, iterate] at h
  split at h
  · contradiction
  · obtain ⟨u, hu, eu⟩ := exec_effect (fetchInstr s).1 (fetchInstr s).2
    simp only [cpuStep] at h
    cases hk : stepKind s.cpu <;> simp only [hk, hu, Host.Outcome.next.injEq] at h
    · exact .inl ⟨rfl, h.symm⟩
    · exact .inr (.inl ⟨rfl, h.symm⟩)
    · exact .inr (.inr (.inl ⟨rfl, h.symm⟩))
    · exact .inr (.inr (.inr ⟨rfl, u, (fetchInstr_exec s).trans eu, h.symm⟩))

end Sys2Proof.Machine
end

