-- ==== Sys2Proof/Laws/PerInstr.lean ====
section
/-! SUPPORT. What holds of every instruction as syntax, one lemma per constructor: the encoding of a well-formed instruction is as
long as `Instr.length` says (30_encoding.md R121). -/

namespace Sys2Proof

/-- The operand bytes of a mode are as many as its operand length. -/
theorem EaMode.length_operandBytes (m : EaMode) : m.operandBytes.length = m.operandLength := by cases m <;> rfl

theorem ReadOperand.length_operandBytes (o : ReadOperand) : o.operandBytes.length = o.operandLength := by
  cases o with
  | imm nn => rfl
  | mem m => exact m.length_operandBytes

theorem ShiftOperand.length_operandBytes (o : ShiftOperand) : o.operandBytes.length = o.operandLength := by
  cases o with
  | acc => rfl
  | mem m => exact m.length_operandBytes

/-- A well-formed instruction has an opcode: its encoding is one byte and its operand bytes. -/
theorem length_encode {i : Instr} (h : i.opcode?.isSome = true) : (encode i).length = 1 + i.operandBytes.length := by
  obtain ⟨op, ho⟩ := Option.isSome_iff_exists.1 h
  simp only [encode, ho, List.length_cons]
  omega

namespace Laws

/-- The encoding of a well-formed instruction has the instruction's length. -/
def EncodeLength.Statement (i : Instr) : Prop := i.wellFormed = true → (encode i).length = i.length

theorem EncodeLength.lda (o : ReadOperand) : EncodeLength.Statement (.lda o) := fun h => by
  refine (length_encode ?_).trans (congrArg _ o.length_operandBytes)
  rcases o with nn | m
  · rfl
  · cases m <;> first | rfl | exact absurd h Bool.false_ne_true

theorem EncodeLength.ldx (o : ReadOperand) : EncodeLength.Statement (.ldx o) := fun h => by
  refine (length_encode ?_).trans (congrArg _ o.length_operandBytes)
  rcases o with nn | m
  · rfl
  · cases m <;> first | rfl | exact absurd h Bool.false_ne_true

theorem EncodeLength.ldy (o : ReadOperand) : EncodeLength.Statement (.ldy o) := fun h => by
  refine (length_encode ?_).trans (congrArg _ o.length_operandBytes)
  rcases o with nn | m
  · rfl
  · cases m <;> first | rfl | exact absurd h Bool.false_ne_true

theorem EncodeLength.sta (m : EaMode) : EncodeLength.Statement (.sta m) := fun h => by
  refine (length_encode ?_).trans (congrArg _ m.length_operandBytes)
  cases m <;> first | rfl | exact absurd h Bool.false_ne_true

theorem EncodeLength.stx (m : EaMode) : EncodeLength.Statement (.stx m) := fun h => by
  refine (length_encode ?_).trans (congrArg _ m.length_operandBytes)
  cases m <;> first | rfl | exact absurd h Bool.false_ne_true

theorem EncodeLength.sty (m : EaMode) : EncodeLength.Statement (.sty m) := fun h => by
  refine (length_encode ?_).trans (congrArg _ m.length_operandBytes)
  cases m <;> first | rfl | exact absurd h Bool.false_ne_true

theorem EncodeLength.tax : EncodeLength.Statement .tax := fun _ => rfl

theorem EncodeLength.tay : EncodeLength.Statement .tay := fun _ => rfl

theorem EncodeLength.txa : EncodeLength.Statement .txa := fun _ => rfl

theorem EncodeLength.tya : EncodeLength.Statement .tya := fun _ => rfl

theorem EncodeLength.tsx : EncodeLength.Statement .tsx := fun _ => rfl

theorem EncodeLength.txs : EncodeLength.Statement .txs := fun _ => rfl

theorem EncodeLength.php : EncodeLength.Statement .php := fun _ => rfl

theorem EncodeLength.pha : EncodeLength.Statement .pha := fun _ => rfl

theorem EncodeLength.pla : EncodeLength.Statement .pla := fun _ => rfl

theorem EncodeLength.plp : EncodeLength.Statement .plp := fun _ => rfl

theorem EncodeLength.adc (o : ReadOperand) : EncodeLength.Statement (.adc o) := fun h => by
  refine (length_encode ?_).trans (congrArg _ o.length_operandBytes)
  rcases o with nn | m
  · rfl
  · cases m <;> first | rfl | exact absurd h Bool.false_ne_true

theorem EncodeLength.sbc (o : ReadOperand) : EncodeLength.Statement (.sbc o) := fun h => by
  refine (length_encode ?_).trans (congrArg _ o.length_operandBytes)
  rcases o with nn | m
  · rfl
  · cases m <;> first | rfl | exact absurd h Bool.false_ne_true

theorem EncodeLength.cmp (o : ReadOperand) : EncodeLength.Statement (.cmp o) := fun h => by
  refine (length_encode ?_).trans (congrArg _ o.length_operandBytes)
  rcases o with nn | m
  · rfl
  · cases m <;> first | rfl | exact absurd h Bool.false_ne_true

theorem EncodeLength.cpx (o : ReadOperand) : EncodeLength.Statement (.cpx o) := fun h => by
  refine (length_encode ?_).trans (congrArg _ o.length_operandBytes)
  rcases o with nn | m
  · rfl
  · cases m <;> first | rfl | exact absurd h Bool.false_ne_true

theorem EncodeLength.cpy (o : ReadOperand) : EncodeLength.Statement (.cpy o) := fun h => by
  refine (length_encode ?_).trans (congrArg _ o.length_operandBytes)
  rcases o with nn | m
  · rfl
  · cases m <;> first | rfl | exact absurd h Bool.false_ne_true

theorem EncodeLength.inc (m : EaMode) : EncodeLength.Statement (.inc m) := fun h => by
  refine (length_encode ?_).trans (congrArg _ m.length_operandBytes)
  cases m <;> first | rfl | exact absurd h Bool.false_ne_true

theorem EncodeLength.dec (m : EaMode) : EncodeLength.Statement (.dec m) := fun h => by
  refine (length_encode ?_).trans (congrArg _ m.length_operandBytes)
  cases m <;> first | rfl | exact absurd h Bool.false_ne_true

theorem EncodeLength.inx : EncodeLength.Statement .inx := fun _ => rfl

theorem EncodeLength.iny : EncodeLength.Statement .iny := fun _ => rfl

theorem EncodeLength.dex : EncodeLength.Statement .dex := fun _ => rfl

theorem EncodeLength.dey : EncodeLength.Statement .dey := fun _ => rfl

theorem EncodeLength.and (o : ReadOperand) : EncodeLength.Statement (.and o) := fun h => by
  refine (length_encode ?_).trans (congrArg _ o.length_operandBytes)
  rcases o with nn | m
  · rfl
  · cases m <;> first | rfl | exact absurd h Bool.false_ne_true

theorem EncodeLength.ora (o : ReadOperand) : EncodeLength.Statement (.ora o) := fun h => by
  refine (length_encode ?_).trans (congrArg _ o.length_operandBytes)
  rcases o with nn | m
  · rfl
  · cases m <;> first | rfl | exact absurd h Bool.false_ne_true

theorem EncodeLength.bit (m : EaMode) : EncodeLength.Statement (.bit m) := fun h => by
  refine (length_encode ?_).trans (congrArg _ m.length_operandBytes)
  cases m <;> first | rfl | exact absurd h Bool.false_ne_true

theorem EncodeLength.eor (o : ReadOperand) : EncodeLength.Statement (.eor o) := fun h => by
  refine (length_encode ?_).trans (congrArg _ o.length_operandBytes)
  rcases o with nn | m
  · rfl
  · cases m <;> first | rfl | exact absurd h Bool.false_ne_true

theorem EncodeLength.asl (o : ShiftOperand) : EncodeLength.Statement (.asl o) := fun h => by
  refine (length_encode ?_).trans (congrArg _ o.length_operandBytes)
  rcases o with _ | m
  · rfl
  · cases m <;> first | rfl | exact absurd h Bool.false_ne_true

theorem EncodeLength.lsr (o : ShiftOperand) : EncodeLength.Statement (.lsr o) := fun h => by
  refine (length_encode ?_).trans (congrArg _ o.length_operandBytes)
  rcases o with _ | m
  · rfl
  · cases m <;> first | rfl | exact absurd h Bool.false_ne_true

theorem EncodeLength.rol (o : ShiftOperand) : EncodeLength.Statement (.rol o) := fun h => by
  refine (length_encode ?_).trans (congrArg _ o.length_operandBytes)
  rcases o with _ | m
  · rfl
  · cases m <;> first | rfl | exact absurd h Bool.false_ne_true

theorem EncodeLength.ror (o : ShiftOperand) : EncodeLength.Statement (.ror o) := fun h => by
  refine (length_encode ?_).trans (congrArg _ o.length_operandBytes)
  rcases o with _ | m
  · rfl
  · cases m <;> first | rfl | exact absurd h Bool.false_ne_true

theorem EncodeLength.bcc (oo : Byte) : EncodeLength.Statement (.bcc oo) := fun _ => rfl

theorem EncodeLength.bcs (oo : Byte) : EncodeLength.Statement (.bcs oo) := fun _ => rfl

theorem EncodeLength.beq (oo : Byte) : EncodeLength.Statement (.beq oo) := fun _ => rfl

theorem EncodeLength.bmi (oo : Byte) : EncodeLength.Statement (.bmi oo) := fun _ => rfl

theorem EncodeLength.bne (oo : Byte) : EncodeLength.Statement (.bne oo) := fun _ => rfl

theorem EncodeLength.bpl (oo : Byte) : EncodeLength.Statement (.bpl oo) := fun _ => rfl

theorem EncodeLength.bvc (oo : Byte) : EncodeLength.Statement (.bvc oo) := fun _ => rfl

theorem EncodeLength.bvs (oo : Byte) : EncodeLength.Statement (.bvs oo) := fun _ => rfl

theorem EncodeLength.jmp (a : Addr) : EncodeLength.Statement (.jmp a) := fun _ => rfl

theorem EncodeLength.jmpInd (a : Addr) : EncodeLength.Statement (.jmpInd a) := fun _ => rfl

theorem EncodeLength.jsr (a : Addr) : EncodeLength.Statement (.jsr a) := fun _ => rfl

theorem EncodeLength.rts : EncodeLength.Statement .rts := fun _ => rfl

theorem EncodeLength.clc : EncodeLength.Statement .clc := fun _ => rfl

theorem EncodeLength.cld : EncodeLength.Statement .cld := fun _ => rfl

theorem EncodeLength.cli : EncodeLength.Statement .cli := fun _ => rfl

theorem EncodeLength.clv : EncodeLength.Statement .clv := fun _ => rfl

theorem EncodeLength.sec : EncodeLength.Statement .sec := fun _ => rfl

theorem EncodeLength.sed : EncodeLength.Statement .sed := fun _ => rfl

theorem EncodeLength.sei : EncodeLength.Statement .sei := fun _ => rfl

theorem EncodeLength.nop : EncodeLength.Statement .nop := fun _ => rfl

theorem EncodeLength.brk : EncodeLength.Statement .brk := fun _ => rfl

theorem EncodeLength.rti : EncodeLength.Statement .rti := fun _ => rfl

theorem EncodeLength.illegal (op : Byte) : EncodeLength.Statement (.illegal op) := fun h => by
  have h' : illegalOpcodes.contains op.toNat = true := h
  simp only [encode, Instr.opcode?, h', if_true]
  rfl

end Laws

end Sys2Proof
end

