-- ==== Sys2Proof/Laws/Render.lean ====
section
/-! SUPPORT. Rendering, part by part: the bytes it reads, sprite evaluation, the pixels, the scroll counters, and what a dot's
first stages leave (51_ppu_timing_rendering.md R350 to R388). -/

namespace Sys2Proof.Machine

/-! ### The bytes rendering reads (20_memory.md R90 to R92) -/

/-- A pattern byte. -/
theorem vramByte_pattern (e : PpuEnv) (p : Ppu) (n : Nat) (h : n < 0x2000) :
    vramByte e p n = (match e.cart.chr with | .rom bytes => bytes.read n | .none => e.chrRam.read n) := by
  have : (BitVec.ofNat 14 n).toNat = n := by simp; omega
  rw [vramByte, vramRead_eq _ _ _ _ (by omega), this, if_pos (by omega)]
  cases hc : e.cart.chr <;> simp only [PpuEnv.chrRead, hc, this]

/-- A nametable byte, by table column and row and the offset in the table. -/
theorem vramByte_nametable (e : PpuEnv) (p : Ppu) (tx ty k : Nat) (hx : tx < 2) (hy : ty < 2) (hk : k < 0x400) :
    vramByte e p (0x2000 + ty * 0x800 + tx * 0x400 + k) =
      p.ciram.read (0x400 * (if e.cart.mirroring = .horizontal then ty else tx) + k) := by
  have : (BitVec.ofNat 14 (0x2000 + ty * 0x800 + tx * 0x400 + k)).toNat = (0x2000 + ty * 0x800 + tx * 0x400 + k) := by simp; omega
  rw [vramByte, vramRead_eq _ _ _ _ (by omega), this, if_neg (by omega), ntIndex_eq _ _ (by omega), this]
  congr 1
  split <;> omega

/-- A bit of a byte turned round (00_scope.md R13). -/
theorem bitReverse8_bit (b : Byte) (i : Nat) (h : i < 8) : (bitReverse8 b).getLsbD i = b.getLsbD (7 - i) := by
  have : ∀ b : Byte, ∀ i, i < 8 → (bitReverse8 b).getLsbD i = b.getLsbD (7 - i) := by decide +kernel
  exact this b i h

/-! ### Sprite evaluation (R371, R372) -/

/-- The latches come from those found before and from sprites in range. -/
theorem collectSprites_mem (e : PpuEnv) (p : Ppu) (s h : Nat) : ∀ (fuel n : Nat) (found : List SpriteLatch),
   ∀ l ∈ (collectSprites e p s h fuel n found).1, l ∈ found ∨ ∃ k, spriteInRange s h (p.oam.read (4 * k)) = true ∧
       l = latchSprite e p k (s - (p.oam.read (4 * k)).toNat) h := by
  intro fuel
  induction fuel with
  | zero => intro n found l hl; exact .inl hl
  | succ fuel ih =>
    intro n found l hl
    simp only [collectSprites] at hl
    split at hl
    · exact .inl hl
    · split at hl
      · next hr =>
        rcases ih _ _ l hl with h1 | h1
        · rcases List.mem_append.1 h1 with h1 | h1
          · exact .inl h1
          · exact .inr ⟨n, hr, List.mem_singleton.1 h1⟩
        · exact .inr h1
      · exact ih _ _ l hl

/-- With eight latches found, the first loop has ended just past the sprite of the last. -/
theorem collectSprites_end (e : PpuEnv) (p : Ppu) (s h : Nat) : ∀ (fuel n : Nat) (found : List SpriteLatch), found.length < 8 →
   (collectSprites e p s h fuel n found).1.length = 8 → ∃ l, (collectSprites e p s h fuel n found).1.getLast? = some l ∧
       l.n + 1 = (collectSprites e p s h fuel n found).2 := by
  intro fuel
  induction fuel with
  | zero => intro n found h1 h2; simp [collectSprites] at h2; omega
  | succ fuel ih =>
    intro n found h1 h2
    simp only [collectSprites] at h2 ⊢
    rw [if_neg (by omega)] at h2 ⊢
    split at h2
    · next hr =>
      rw [if_pos hr]
      by_cases h8 : found.length = 7
      · cases fuel with
        | zero => simp [collectSprites, latchSprite]
        | succ fuel => simp [collectSprites, latchSprite, h8]
      · exact ih _ _ (by simp; omega) h2
    · next hr =>
      rw [if_neg hr]
      exact ih _ _ h1 h2

/-- The ideal search: some sprite from n on is in range. -/
theorem overflowIdeal_iff (oam : Memory) (s h : Nat) : ∀ fuel n, overflowIdeal oam s h fuel n = true ↔ ∃ m, n ≤ m ∧
    m < n + fuel ∧ spriteInRange s h (oam.read (4 * m)) = true := by
  intro fuel
  induction fuel with
  | zero => intro n; simp [overflowIdeal]; intro m h1 h2; omega
  | succ fuel ih =>
    intro n
    simp only [overflowIdeal, Bool.or_eq_true, ih]
    constructor
    · rintro (h | ⟨m, h1, h2, h3⟩)
      · exact ⟨n, by omega, by omega, h⟩
      · exact ⟨m, by omega, by omega, h3⟩
    · rintro ⟨m, h1, h2, h3⟩
      by_cases hm : m = n
      · subst hm; exact .inl h3
      · exact .inr ⟨m, by omega, by omega, h3⟩

/-- The hardware search: the byte index moves with the sprite index. -/
theorem overflowHardware_iff (oam : Memory) (s h : Nat) : ∀ fuel n m, m < 4 → (overflowHardware oam s h fuel n m = true ↔
    ∃ k, k < fuel ∧ spriteInRange s h (oam.read (4 * (n + k) + (m + k) % 4)) = true) := by
  intro fuel
  induction fuel with
  | zero => intro n m _; simp [overflowHardware]
  | succ fuel ih =>
    intro n m hm
    simp only [overflowHardware, Bool.or_eq_true, ih _ _ (Nat.mod_lt _ (by omega : 4 > 0))]
    constructor
    · rintro (h | ⟨k, h1, h3⟩)
      · exact ⟨0, by omega, by simpa [Nat.mod_eq_of_lt hm] using h⟩
      · refine ⟨k + 1, by omega, ?_⟩
        rw [show n + (k + 1) = n + 1 + k by omega, show (m + (k + 1)) % 4 = ((m + 1) % 4 + k) % 4 by omega]
        exact h3
    · rintro ⟨k, h1, h3⟩
      cases k with
      | zero => left; simpa [Nat.mod_eq_of_lt hm] using h3
      | succ k =>
        rw [show n + (k + 1) = n + 1 + k by omega, show (m + (k + 1)) % 4 = ((m + 1) % 4 + k) % 4 by omega] at h3
        exact .inr ⟨k, by omega, h3⟩

/-- Evaluation reads only Control, Mask, OAM and the memories. -/
theorem evaluateSprites_congr (e : PpuEnv) (s : Nat) (p q : Ppu) (h : q.ctrl = p.ctrl ∧ q.mask = p.mask ∧
    q.oam = p.oam) (hc : q.ciram = p.ciram) (hp : q.palette = p.palette) : (evaluateSprites e s q).lineSprites =
      (evaluateSprites e s p).lineSprites := by
  obtain ⟨h1, h2, h3⟩ := h
  have hl : ∀ n rr h, latchSprite e q n rr h = latchSprite e p n rr h := by
    intro n rr h
    simp only [latchSprite, vramByte, vramRead, Ppu.colour, h1, h3, hc, hp]
  have hcol : ∀ h fuel n found, collectSprites e q s h fuel n found = collectSprites e p s h fuel n found := by
    intro h fuel
    induction fuel with
    | zero => intros; rfl
    | succ fuel ih => intro n found; simp only [collectSprites, ih, hl, h3]
  have hr : q.renderingEnabled = p.renderingEnabled := by simp only [Ppu.renderingEnabled, h2]
  have hht : q.spriteHeight = p.spriteHeight := by simp only [Ppu.spriteHeight, h1]
  unfold evaluateSprites
  by_cases hh : s > 239 ∨ ¬ p.renderingEnabled = true
  · rw [if_pos hh, if_pos (by rw [hr]; exact hh)]
  · rw [if_neg hh, if_neg (by rw [hr]; exact hh)]
    simp only [hht, hcol]

/-! ### Pixels (R373, R374, R380) -/

/-- A pattern pixel as a number. -/
theorem patternPixel_toNat (lo hi : Byte) (c : Nat) : (patternPixel lo hi c).toNat = 2 * (hi.getLsbD (7 - c)).toNat +
    (lo.getLsbD (7 - c)).toNat := by
  simp only [patternPixel]
  generalize hi.getLsbD _ = a
  generalize lo.getLsbD _ = b
  revert a b; decide

/-- The sprite pixel is that of the first opaque latch. -/
theorem spritePixel_find (ls : List SpriteLatch) (x : Nat) :
    spritePixel ls x =
      (match ls.find? (fun l => decide (l.pixel x ≠ 0)) with
      | some l => { pixel := l.pixel x, palette := l.attr.extractLsb' 0 2, behind := l.attr.getLsbD 5 }
      | none => { pixel := 0, palette := 0, behind := false }) := by
  induction ls with
  | nil => rfl
  | cons l ls ih =>
    simp only [spritePixel, List.find?_cons]
    by_cases h : l.pixel x = 0
    · simp [h, ih]
    · rw [if_pos h, show decide (l.pixel x ≠ 0) = true from decide_eq_true h]

/-- The pixel of sprite 0 is that of its latch. -/
theorem sprite0Pixel_find (ls : List SpriteLatch) (x : Nat) :
    sprite0Pixel ls x = (match ls.find? (fun l => decide (l.n = 0)) with | some l => l.pixel x | none => 0) := by
  induction ls with
  | nil => rfl
  | cons l ls ih =>
    simp only [sprite0Pixel, List.find?_cons]
    by_cases h : l.n = 0 <;> simp [h, ih]

/-- Drawing does not read the position, the frame flag or the copy of the frame. -/
theorem renderPixel_congr (e : PpuEnv) (s x : Nat) (p : Ppu) (a b : Nat) (c : Bool) (d : Store 9) :
   (renderPixel e s x { p with scanline := a, dot := b, frameReady := c, fbOut := d }).fb = (renderPixel e s x p).fb ∧
   (renderPixel e s x { p with scanline := a, dot := b, frameReady := c, fbOut := d }).sprite0Hit =
       (renderPixel e s x p).sprite0Hit := by
  have hr' : Ppu.renderingEnabled { p with scanline := a, dot := b, frameReady := c, fbOut := d } = p.renderingEnabled := rfl
  generalize hq : { p with scanline := a, dot := b, frameReady := c, fbOut := d } = q at *
  unfold renderPixel
  by_cases hr : p.renderingEnabled = true
  · rw [if_neg (not_not.2 (hr'.trans hr)), if_neg (not_not.2 hr)]; subst hq; exact ⟨rfl, rfl⟩
  · rw [if_pos (by rw [hr']; exact hr), if_pos hr]; subst hq; exact ⟨rfl, rfl⟩

/-! ### The scroll counters (R354 to R358) -/

/-- Coarse X with its nametable bit, as one number of 0..63. -/
def Vaddr.across (v : Vaddr) : Nat := 32 * (v.extractLsb' 10 1).toNat + (v.extractLsb' 0 5).toNat

/-- Fine Y. -/
def Vaddr.fineY (v : Vaddr) : Nat := (v.extractLsb' 12 3).toNat

/-- Coarse Y. -/
def Vaddr.coarseY (v : Vaddr) : Nat := (v.extractLsb' 5 5).toNat

/-- The vertical nametable bit. -/
def Vaddr.half (v : Vaddr) : Nat := (v.extractLsb' 11 1).toNat

/-- `IncCoarseX` on the fields of v (R355). -/
theorem incCoarseX_fields (v : Vaddr) : Vaddr.across (incCoarseX v) = (Vaddr.across v + 1) % 64 ∧
    Vaddr.fineY (incCoarseX v) = Vaddr.fineY v ∧ Vaddr.coarseY (incCoarseX v) = Vaddr.coarseY v ∧
      Vaddr.half (incCoarseX v) = Vaddr.half v := by
  simp only [incCoarseX, Vaddr.across, Vaddr.fineY, Vaddr.coarseY, Vaddr.half]
  split
  · next h =>
    rw [extract_putBits_same _ _ _ (by omega), extract_putBits_other _ _ _ 0 5 (by omega) (by omega),
      extract_putBits_same _ _ _ (by omega), extract_putBits_other _ _ _ 12 3 (by omega) (by omega),
        extract_putBits_other _ _ _ 12 3 (by omega) (by omega),
      extract_putBits_other _ _ _ 5 5 (by omega) (by omega), extract_putBits_other _ _ _ 5 5 (by omega) (by omega),
        extract_putBits_other _ _ _ 11 1 (by omega) (by omega), extract_putBits_other _ _ _ 11 1 (by omega) (by omega), h]
    refine ⟨?_, rfl, rfl, rfl⟩
    generalize v.extractLsb' 10 1 = b
    revert b; decide
  · next h =>
    rw [extract_putBits_same _ _ _ (by omega), extract_putBits_other _ _ _ 10 1 (by omega) (by omega),
      extract_putBits_other _ _ _ 12 3 (by omega) (by omega),
      extract_putBits_other _ _ _ 5 5 (by omega) (by omega), extract_putBits_other _ _ _ 11 1 (by omega) (by omega)]
    refine ⟨?_, rfl, rfl, rfl⟩
    generalize v.extractLsb' 10 1 = b at *
    generalize v.extractLsb' 0 5 = c at *
    revert b c; decide

/-- `IncY` on the fields of v (R356). -/
theorem incY_fields (v : Vaddr) : Vaddr.across (incY v) = Vaddr.across v ∧ Vaddr.fineY (incY v) = (Vaddr.fineY v + 1) % 8 ∧
    Vaddr.coarseY (incY v) =
      (if Vaddr.fineY v < 7 then Vaddr.coarseY v
      else if Vaddr.coarseY v = 29 ∨ Vaddr.coarseY v = 31 then 0 else Vaddr.coarseY v + 1) ∧
    Vaddr.half (incY v) = (if Vaddr.fineY v = 7 ∧ Vaddr.coarseY v = 29 then 1 - Vaddr.half v else Vaddr.half v) := by
  have hy : ∀ (w : Vaddr) (x : BitVec 3), Vaddr.across (putBits w 12 x) = Vaddr.across w ∧
      Vaddr.fineY (putBits w 12 x) = x.toNat ∧ Vaddr.coarseY (putBits w 12 x) = Vaddr.coarseY w ∧
        Vaddr.half (putBits w 12 x) = Vaddr.half w := by
    intro w x
    simp only [Vaddr.across, Vaddr.fineY, Vaddr.coarseY, Vaddr.half]
    rw [extract_putBits_same _ _ _ (by omega), extract_putBits_other _ _ _ 10 1 (by omega) (by omega),
      extract_putBits_other _ _ _ 0 5 (by omega) (by omega),
      extract_putBits_other _ _ _ 5 5 (by omega) (by omega), extract_putBits_other _ _ _ 11 1 (by omega) (by omega)]
    exact ⟨rfl, rfl, rfl, rfl⟩
  have hc : ∀ (w : Vaddr) (x : BitVec 5), Vaddr.across (putBits w 5 x) = Vaddr.across w ∧
      Vaddr.fineY (putBits w 5 x) = Vaddr.fineY w ∧ Vaddr.coarseY (putBits w 5 x) = x.toNat ∧
        Vaddr.half (putBits w 5 x) = Vaddr.half w := by
    intro w x
    simp only [Vaddr.across, Vaddr.fineY, Vaddr.coarseY, Vaddr.half]
    rw [extract_putBits_same _ _ _ (by omega), extract_putBits_other _ _ _ 10 1 (by omega) (by omega),
      extract_putBits_other _ _ _ 0 5 (by omega) (by omega),
      extract_putBits_other _ _ _ 12 3 (by omega) (by omega), extract_putBits_other _ _ _ 11 1 (by omega) (by omega)]
    exact ⟨rfl, rfl, rfl, rfl⟩
  have hh : ∀ (w : Vaddr) (x : BitVec 1), Vaddr.across (putBits w 11 x) = Vaddr.across w ∧
      Vaddr.fineY (putBits w 11 x) = Vaddr.fineY w ∧ Vaddr.coarseY (putBits w 11 x) = Vaddr.coarseY w ∧
        Vaddr.half (putBits w 11 x) = x.toNat := by
    intro w x
    simp only [Vaddr.across, Vaddr.fineY, Vaddr.coarseY, Vaddr.half]
    rw [extract_putBits_same _ _ _ (by omega), extract_putBits_other _ _ _ 10 1 (by omega) (by omega),
      extract_putBits_other _ _ _ 0 5 (by omega) (by omega),
      extract_putBits_other _ _ _ 12 3 (by omega) (by omega), extract_putBits_other _ _ _ 5 5 (by omega) (by omega)]
    exact ⟨rfl, rfl, rfl, rfl⟩
  have h3 := (v.extractLsb' 12 3).isLt
  simp only [incY]
  by_cases h : (v.extractLsb' 12 3).toNat < 7
  · rw [if_pos h]
    obtain ⟨a, b, c, d⟩ := hy v (v.extractLsb' 12 3 + 1)
    rw [a, b, c, d]
    have : Vaddr.fineY v < 7 := h
    rw [if_pos this, if_neg (by omega)]
    refine ⟨rfl, ?_, rfl, rfl⟩
    rw [BitVec.toNat_add]; rfl
  · rw [if_neg h]
    have h7 : Vaddr.fineY v = 7 := by simp only [Vaddr.fineY]; omega
    obtain ⟨a, b, c, d⟩ := hy v 0
    rw [h7]
    generalize hw : putBits v 12 (0 : BitVec 3) = w at *
    have hcy : (w.extractLsb' 5 5).toNat = Vaddr.coarseY v := c
    have b' : Vaddr.fineY w = 0 := b
    by_cases h29 : w.extractLsb' 5 5 = 29#5
    · obtain ⟨a1, b1, c1, d1⟩ := hh w (~~~w.extractLsb' 11 1)
      obtain ⟨a2, b2, c2, d2⟩ := hc (putBits w 11 (~~~w.extractLsb' 11 1)) 0
      have k29 : Vaddr.coarseY v = 29 := by rw [← hcy, h29]; rfl
      rw [if_pos h29, a2, b2, c2, d2, a1, b1, d1, a, b', k29]
      refine ⟨rfl, rfl, rfl, ?_⟩
      rw [if_pos ⟨rfl, rfl⟩, ← d]
      simp only [Vaddr.half]
      generalize w.extractLsb' 11 1 = q
      revert q; decide
    · have n29 : Vaddr.coarseY v ≠ 29 := by rw [← hcy]; intro k; exact h29 (BitVec.eq_of_toNat_eq k)
      rw [if_neg h29]
      by_cases h31 : w.extractLsb' 5 5 = 31#5
      · obtain ⟨a2, b2, c2, d2⟩ := hc w 0
        have k31 : Vaddr.coarseY v = 31 := by rw [← hcy, h31]; rfl
        rw [if_pos h31, a2, b2, c2, d2, a, b', d, k31]
        exact ⟨rfl, rfl, rfl, by simp⟩
      · obtain ⟨a2, b2, c2, d2⟩ := hc w (w.extractLsb' 5 5 + 1)
        have k31 : Vaddr.coarseY v ≠ 31 := by rw [← hcy]; intro k; exact h31 (BitVec.eq_of_toNat_eq k)
        rw [if_neg h31, a2, b2, c2, d2, a, b', d, if_neg (by omega), if_neg (by omega), if_neg (by omega)]
        refine ⟨rfl, rfl, ?_, rfl⟩
        rw [BitVec.toNat_add, hcy, Nat.mod_eq_of_lt]; rfl
        have := (w.extractLsb' 5 5).isLt
        rw [hcy] at this
        simp; omega

/-- `CopyHorizontal` on the fields of v (R357). -/
theorem copyHorizontal_fields (t v : Vaddr) : Vaddr.across (copyHorizontal t v) = Vaddr.across t ∧
    Vaddr.fineY (copyHorizontal t v) = Vaddr.fineY v ∧ Vaddr.coarseY (copyHorizontal t v) = Vaddr.coarseY v ∧
      Vaddr.half (copyHorizontal t v) = Vaddr.half v := by
  simp only [copyHorizontal, Vaddr.across, Vaddr.fineY, Vaddr.coarseY, Vaddr.half]
  rw [extract_putBits_same _ _ _ (by omega), extract_putBits_other _ _ _ 10 1 (by omega) (by omega),
      extract_putBits_same _ _ _ (by omega), extract_putBits_other _ _ _ 12 3 (by omega) (by omega),
        extract_putBits_other _ _ _ 12 3 (by omega) (by omega),
      extract_putBits_other _ _ _ 5 5 (by omega) (by omega), extract_putBits_other _ _ _ 5 5 (by omega) (by omega),
        extract_putBits_other _ _ _ 11 1 (by omega) (by omega), extract_putBits_other _ _ _ 11 1 (by omega) (by omega)]
  exact ⟨rfl, rfl, rfl, rfl⟩

/-- A field of a field. -/
theorem extract_extract (t : Vaddr) (a b c d : Nat) (h : c + d ≤ b) :
    (t.extractLsb' a b).extractLsb' c d = t.extractLsb' (a + c) d := by
  apply BitVec.eq_of_getLsbD_eq
  intro i hi
  simp only [BitVec.getLsbD_extractLsb', hi, decide_true, Bool.true_and, show c + i < b by omega, Nat.add_assoc]

/-- `CopyVertical` on the fields of v (R358). -/
theorem copyVertical_fields (t v : Vaddr) : Vaddr.across (copyVertical t v) = Vaddr.across v ∧
    Vaddr.fineY (copyVertical t v) = Vaddr.fineY t ∧ Vaddr.coarseY (copyVertical t v) = Vaddr.coarseY t ∧
      Vaddr.half (copyVertical t v) = Vaddr.half t := by
  simp only [copyVertical, Vaddr.across, Vaddr.fineY, Vaddr.coarseY, Vaddr.half]
  rw [extract_putBits_same _ _ _ (by omega), extract_putBits_other _ _ _ 10 1 (by omega) (by omega),
      extract_putBits_other _ _ _ 10 1 (by omega) (by omega), extract_putBits_other _ _ _ 0 5 (by omega) (by omega),
        extract_putBits_other _ _ _ 0 5 (by omega) (by omega),
    extract_putBits_other _ _ _ 12 3 (by omega) (by omega), extract_putBits_sub _ _ _ 12 3 (by omega) (by omega) (by omega),
      extract_putBits_other _ _ _ 11 1 (by omega) (by omega), extract_putBits_sub _ _ _ 11 1 (by omega) (by omega) (by omega),
    extract_extract _ _ _ _ _ (by omega), extract_extract _ _ _ _ _ (by omega)]
  exact ⟨rfl, rfl, rfl, rfl⟩

/-- The dots that count coarse X on (R354). -/
theorem coarseXDot_iff (d : Nat) : coarseXDot d = true ↔ ((1 ≤ d ∧ d ≤ 256 ∧ d % 8 = 0) ∨ d = 328 ∨ d = 336) := by
  simp only [coarseXDot, Bool.or_eq_true, Bool.and_eq_true, decide_eq_true_eq, beq_iff_eq]; tauto

/-- The scroll counters of a dot on the fields of v (R354). -/
theorem scrollCounters_fields (s d : Nat) (t v : Vaddr) :
  Vaddr.across (scrollCounters s d t v) = (if (1 ≤ d ∧ d ≤ 256 ∧
      d % 8 = 0) ∨ d = 328 ∨ d = 336 then (Vaddr.across v + 1) % 64 else if d = 257 then Vaddr.across t else Vaddr.across v) ∧
  (d = 256 →
    Vaddr.fineY (scrollCounters s d t v) = (Vaddr.fineY v + 1) % 8 ∧
    Vaddr.coarseY (scrollCounters s d t v) = (if Vaddr.fineY v < 7 then Vaddr.coarseY v
      else if Vaddr.coarseY v = 29 ∨ Vaddr.coarseY v = 31 then 0 else Vaddr.coarseY v + 1) ∧
    Vaddr.half (scrollCounters s d t v) = (if Vaddr.fineY v = 7 ∧ Vaddr.coarseY v = 29 then 1 - Vaddr.half v else Vaddr.half v)) ∧
  (d ≠ 256 → let source := if s = 261 ∧ 280 ≤ d ∧ d ≤ 304 then t else v
        Vaddr.fineY (scrollCounters s d t v) = Vaddr.fineY source ∧
          Vaddr.coarseY (scrollCounters s d t v) = Vaddr.coarseY source ∧
            Vaddr.half (scrollCounters s d t v) = Vaddr.half source) := by
  simp only [scrollCounters, coarseXDot_iff]
  obtain ⟨x1, x2, x3, x4⟩ := incCoarseX_fields v
  by_cases h256 : d = 256
  · subst h256
    simp
    obtain ⟨y1, y2, y3, y4⟩ := incY_fields (incCoarseX v)
    rw [y1, y2, y3, y4, x1, x2, x3, x4]
    exact ⟨rfl, rfl, rfl, rfl⟩
  · by_cases h257 : d = 257
    · subst h257
      simp
      obtain ⟨y1, y2, y3, y4⟩ := copyHorizontal_fields t v
      exact ⟨y1, y2, y3, y4⟩
    · by_cases hx : (1 ≤ d ∧ d ≤ 256 ∧ d % 8 = 0) ∨ d = 328 ∨ d = 336
      · have hv : ¬ (s = 261 ∧ 280 ≤ d ∧ d ≤ 304) := by omega
        simp only [hx, h256, h257, hv, if_true, if_false]
        exact ⟨x1, fun h => absurd h (by simp), fun _ => ⟨x2, x3, x4⟩⟩
      · simp only [hx, h256, h257, if_false]
        by_cases hv : s = 261 ∧ 280 ≤ d ∧ d ≤ 304
        · simp only [hv, and_self, if_true]
          obtain ⟨y1, y2, y3, y4⟩ := copyVertical_fields t v
          exact ⟨y1, fun h => absurd h (by simp), fun _ => ⟨y2, y3, y4⟩⟩
        · simp only [hv, if_false]
          simp

/-! ### The stages before the scroll counters -/

/-- What drawing, the vblank start and the pre-render clear leave. -/
structure BeforeScroll (p q : Ppu) : Prop where
  eq : q =
    { p with
      fb := q.fb, vblank := q.vblank, sprite0Hit := q.sprite0Hit, spriteOverflow := q.spriteOverflow, nmiRequest := q.nmiRequest }

theorem BeforeScroll.trans {p q r : Ppu} (h : BeforeScroll p q) (k : BeforeScroll q r) : BeforeScroll p r := ⟨by rw [k.eq, h.eq]⟩

/-- The three stages together. -/
theorem stages_beforeScroll (e : PpuEnv) (p : Ppu) : BeforeScroll p (dotClear e (dotVblank (dotPixel e p))) :=
  have h1 : BeforeScroll p (dotPixel e p) := ⟨by rw [dotPixel_eq]⟩
  have h2 : ∀ q, BeforeScroll q (dotVblank q) := fun q => ⟨by rw [dotVblank_eq]⟩
  have h3 : ∀ q, BeforeScroll q (dotClear e q) := fun q => ⟨by rw [dotClear_eq]⟩
  h1.trans ((h2 _).trans (h3 _))

end Sys2Proof.Machine
end

