-- ==== Sys2Proof/Tests/Slice0.lean ====
section
/-! SUPPORT. The model's own tests: which terms are instructions, what the words of the spec's encodings decode to, the vectors of
95_test_vectors.md (ids as there), and, for every obligation with hypotheses, states and operands that meet them. -/

namespace Sys2Proof.Tests

open Sys2Proof.Machine

/-! ### WellFormed: one term for each check that it refuses -/

/-- A form outside each instruction's list is refused (R161 to R166, R191, R196, R198, R223, R225), and an `illegal` with a
documented opcode byte (R119). -/
theorem test_ill_formed_terms_refused :
    (Instr.lda (.mem (.zpy 0))).wellFormed = false ∧ (Instr.ldx (.mem (.zpx 0))).wellFormed = false ∧
    (Instr.ldy (.mem (.aby 0))).wellFormed = false ∧ (Instr.cpx (.mem (.zpx 0))).wellFormed = false ∧
    (Instr.sta (.zpy 0)).wellFormed = false ∧ (Instr.stx (.zpx 0)).wellFormed = false ∧ (Instr.sty (.zpy 0)).wellFormed = false ∧
    (Instr.bit (.zpx 0)).wellFormed = false ∧ (Instr.inc (.aby 0)).wellFormed = false ∧
    (Instr.asl (.mem (.izx 0))).wellFormed = false ∧ (Instr.illegal 0xEA).wellFormed = false := by decide

/-- An ill-formed term encodes to nothing. -/
theorem test_ill_formed_encodes_to_nothing : encode (.lda (.mem (.zpy 0))) = [] ∧ encode (.illegal 0xEA) = [] := by decide

/-! ### Decoding: the words of 30_encoding.md R117 and of each rule's Encoding line, bytes written out -/

/-- The decoder's answer, without the rest. -/
def read (bytes : List Byte) : Option Instr :=
  match decode bytes with
  | .ok (i, _) => some i
  | .error _ => none

/-- R161 to R163. -/
theorem test_decode_loads :
    read [0xA9, 0x12] = some (.lda (.imm 0x12)) ∧ read [0xA5, 0x12] = some (.lda (.mem (.zp 0x12))) ∧
    read [0xB5, 0x12] = some (.lda (.mem (.zpx 0x12))) ∧ read [0xAD, 0x12, 0x34] = some (.lda (.mem (.abs 0x3412))) ∧
    read [0xBD, 0x12, 0x34] = some (.lda (.mem (.abx 0x3412))) ∧ read [0xB9, 0x12, 0x34] = some (.lda (.mem (.aby 0x3412))) ∧
    read [0xA1, 0x12] = some (.lda (.mem (.izx 0x12))) ∧ read [0xB1, 0x12] = some (.lda (.mem (.izy 0x12))) ∧
    read [0xA2, 0x12] = some (.ldx (.imm 0x12)) ∧ read [0xA6, 0x12] = some (.ldx (.mem (.zp 0x12))) ∧
    read [0xB6, 0x12] = some (.ldx (.mem (.zpy 0x12))) ∧ read [0xAE, 0x12, 0x34] = some (.ldx (.mem (.abs 0x3412))) ∧
    read [0xBE, 0x12, 0x34] = some (.ldx (.mem (.aby 0x3412))) ∧ read [0xA0, 0x12] = some (.ldy (.imm 0x12)) ∧
    read [0xA4, 0x12] = some (.ldy (.mem (.zp 0x12))) ∧ read [0xB4, 0x12] = some (.ldy (.mem (.zpx 0x12))) ∧
    read [0xAC, 0x12, 0x34] = some (.ldy (.mem (.abs 0x3412))) ∧ read [0xBC, 0x12, 0x34] = some (.ldy (.mem (.abx 0x3412))) := by
  decide +kernel

/-- R164 to R184. -/
theorem test_decode_stores_transfers_stack :
    read [0x85, 0x12] = some (.sta (.zp 0x12)) ∧ read [0x95, 0x12] = some (.sta (.zpx 0x12)) ∧
    read [0x8D, 0x12, 0x34] = some (.sta (.abs 0x3412)) ∧ read [0x9D, 0x12, 0x34] = some (.sta (.abx 0x3412)) ∧
    read [0x99, 0x12, 0x34] = some (.sta (.aby 0x3412)) ∧ read [0x81, 0x12] = some (.sta (.izx 0x12)) ∧
    read [0x91, 0x12] = some (.sta (.izy 0x12)) ∧ read [0x86, 0x12] = some (.stx (.zp 0x12)) ∧
    read [0x96, 0x12] = some (.stx (.zpy 0x12)) ∧ read [0x8E, 0x12, 0x34] = some (.stx (.abs 0x3412)) ∧
    read [0x84, 0x12] = some (.sty (.zp 0x12)) ∧ read [0x94, 0x12] = some (.sty (.zpx 0x12)) ∧
    read [0x8C, 0x12, 0x34] = some (.sty (.abs 0x3412)) ∧ read [0xAA] = some (.tax) ∧ read [0xA8] = some (.tay) ∧
    read [0x8A] = some (.txa) ∧ read [0x98] = some (.tya) ∧ read [0xBA] = some (.tsx) ∧ read [0x9A] = some (.txs) ∧
    read [0x08] = some (.php) ∧ read [0x48] = some (.pha) ∧ read [0x68] = some (.pla) ∧ read [0x28] = some (.plp) := by
  decide +kernel

/-- R191 to R197. -/
theorem test_decode_adc_sbc_compare :
    read [0x69, 0x12] = some (.adc (.imm 0x12)) ∧ read [0x65, 0x12] = some (.adc (.mem (.zp 0x12))) ∧
    read [0x75, 0x12] = some (.adc (.mem (.zpx 0x12))) ∧ read [0x6D, 0x12, 0x34] = some (.adc (.mem (.abs 0x3412))) ∧
    read [0x7D, 0x12, 0x34] = some (.adc (.mem (.abx 0x3412))) ∧ read [0x79, 0x12, 0x34] = some (.adc (.mem (.aby 0x3412))) ∧
    read [0x61, 0x12] = some (.adc (.mem (.izx 0x12))) ∧ read [0x71, 0x12] = some (.adc (.mem (.izy 0x12))) ∧
    read [0xE9, 0x12] = some (.sbc (.imm 0x12)) ∧ read [0xE5, 0x12] = some (.sbc (.mem (.zp 0x12))) ∧
    read [0xF5, 0x12] = some (.sbc (.mem (.zpx 0x12))) ∧ read [0xED, 0x12, 0x34] = some (.sbc (.mem (.abs 0x3412))) ∧
    read [0xFD, 0x12, 0x34] = some (.sbc (.mem (.abx 0x3412))) ∧ read [0xF9, 0x12, 0x34] = some (.sbc (.mem (.aby 0x3412))) ∧
    read [0xE1, 0x12] = some (.sbc (.mem (.izx 0x12))) ∧ read [0xF1, 0x12] = some (.sbc (.mem (.izy 0x12))) ∧
    read [0xC9, 0x12] = some (.cmp (.imm 0x12)) ∧ read [0xC5, 0x12] = some (.cmp (.mem (.zp 0x12))) ∧
    read [0xD5, 0x12] = some (.cmp (.mem (.zpx 0x12))) ∧ read [0xCD, 0x12, 0x34] = some (.cmp (.mem (.abs 0x3412))) ∧
    read [0xDD, 0x12, 0x34] = some (.cmp (.mem (.abx 0x3412))) ∧ read [0xD9, 0x12, 0x34] = some (.cmp (.mem (.aby 0x3412))) ∧
    read [0xC1, 0x12] = some (.cmp (.mem (.izx 0x12))) ∧ read [0xD1, 0x12] = some (.cmp (.mem (.izy 0x12))) ∧
    read [0xE0, 0x12] = some (.cpx (.imm 0x12)) ∧ read [0xE4, 0x12] = some (.cpx (.mem (.zp 0x12))) ∧
    read [0xEC, 0x12, 0x34] = some (.cpx (.mem (.abs 0x3412))) ∧ read [0xC0, 0x12] = some (.cpy (.imm 0x12)) ∧
    read [0xC4, 0x12] = some (.cpy (.mem (.zp 0x12))) ∧ read [0xCC, 0x12, 0x34] = some (.cpy (.mem (.abs 0x3412))) := by
  decide +kernel

/-- R198 to R203. -/
theorem test_decode_inc_dec :
    read [0xE6, 0x12] = some (.inc (.zp 0x12)) ∧ read [0xF6, 0x12] = some (.inc (.zpx 0x12)) ∧
    read [0xEE, 0x12, 0x34] = some (.inc (.abs 0x3412)) ∧ read [0xFE, 0x12, 0x34] = some (.inc (.abx 0x3412)) ∧
    read [0xC6, 0x12] = some (.dec (.zp 0x12)) ∧ read [0xD6, 0x12] = some (.dec (.zpx 0x12)) ∧
    read [0xCE, 0x12, 0x34] = some (.dec (.abs 0x3412)) ∧ read [0xDE, 0x12, 0x34] = some (.dec (.abx 0x3412)) ∧
    read [0xE8] = some (.inx) ∧ read [0xC8] = some (.iny) ∧ read [0xCA] = some (.dex) ∧ read [0x88] = some (.dey) := by
  decide +kernel

/-- R221 to R224. -/
theorem test_decode_logic :
    read [0x29, 0x12] = some (.and (.imm 0x12)) ∧ read [0x25, 0x12] = some (.and (.mem (.zp 0x12))) ∧
    read [0x35, 0x12] = some (.and (.mem (.zpx 0x12))) ∧ read [0x2D, 0x12, 0x34] = some (.and (.mem (.abs 0x3412))) ∧
    read [0x3D, 0x12, 0x34] = some (.and (.mem (.abx 0x3412))) ∧ read [0x39, 0x12, 0x34] = some (.and (.mem (.aby 0x3412))) ∧
    read [0x21, 0x12] = some (.and (.mem (.izx 0x12))) ∧ read [0x31, 0x12] = some (.and (.mem (.izy 0x12))) ∧
    read [0x09, 0x12] = some (.ora (.imm 0x12)) ∧ read [0x05, 0x12] = some (.ora (.mem (.zp 0x12))) ∧
    read [0x15, 0x12] = some (.ora (.mem (.zpx 0x12))) ∧ read [0x0D, 0x12, 0x34] = some (.ora (.mem (.abs 0x3412))) ∧
    read [0x1D, 0x12, 0x34] = some (.ora (.mem (.abx 0x3412))) ∧ read [0x19, 0x12, 0x34] = some (.ora (.mem (.aby 0x3412))) ∧
    read [0x01, 0x12] = some (.ora (.mem (.izx 0x12))) ∧ read [0x11, 0x12] = some (.ora (.mem (.izy 0x12))) ∧
    read [0x49, 0x12] = some (.eor (.imm 0x12)) ∧ read [0x45, 0x12] = some (.eor (.mem (.zp 0x12))) ∧
    read [0x55, 0x12] = some (.eor (.mem (.zpx 0x12))) ∧ read [0x4D, 0x12, 0x34] = some (.eor (.mem (.abs 0x3412))) ∧
    read [0x5D, 0x12, 0x34] = some (.eor (.mem (.abx 0x3412))) ∧ read [0x59, 0x12, 0x34] = some (.eor (.mem (.aby 0x3412))) ∧
    read [0x41, 0x12] = some (.eor (.mem (.izx 0x12))) ∧ read [0x51, 0x12] = some (.eor (.mem (.izy 0x12))) ∧
    read [0x24, 0x12] = some (.bit (.zp 0x12)) ∧ read [0x2C, 0x12, 0x34] = some (.bit (.abs 0x3412)) := by
  decide +kernel

/-- R225 to R228. -/
theorem test_decode_shifts :
    read [0x06, 0x12] = some (.asl (.mem (.zp 0x12))) ∧ read [0x16, 0x12] = some (.asl (.mem (.zpx 0x12))) ∧
    read [0x0E, 0x12, 0x34] = some (.asl (.mem (.abs 0x3412))) ∧ read [0x1E, 0x12, 0x34] = some (.asl (.mem (.abx 0x3412))) ∧
    read [0x0A] = some (.asl .acc) ∧ read [0x46, 0x12] = some (.lsr (.mem (.zp 0x12))) ∧
    read [0x56, 0x12] = some (.lsr (.mem (.zpx 0x12))) ∧ read [0x4E, 0x12, 0x34] = some (.lsr (.mem (.abs 0x3412))) ∧
    read [0x5E, 0x12, 0x34] = some (.lsr (.mem (.abx 0x3412))) ∧ read [0x4A] = some (.lsr .acc) ∧
    read [0x26, 0x12] = some (.rol (.mem (.zp 0x12))) ∧ read [0x36, 0x12] = some (.rol (.mem (.zpx 0x12))) ∧
    read [0x2E, 0x12, 0x34] = some (.rol (.mem (.abs 0x3412))) ∧ read [0x3E, 0x12, 0x34] = some (.rol (.mem (.abx 0x3412))) ∧
    read [0x2A] = some (.rol .acc) ∧ read [0x66, 0x12] = some (.ror (.mem (.zp 0x12))) ∧
    read [0x76, 0x12] = some (.ror (.mem (.zpx 0x12))) ∧ read [0x6E, 0x12, 0x34] = some (.ror (.mem (.abs 0x3412))) ∧
    read [0x7E, 0x12, 0x34] = some (.ror (.mem (.abx 0x3412))) ∧ read [0x6A] = some (.ror .acc) := by
  decide +kernel

/-- R241 to R252. -/
theorem test_decode_control :
    read [0x90, 0x12] = some (.bcc 0x12) ∧ read [0xB0, 0x12] = some (.bcs 0x12) ∧ read [0xF0, 0x12] = some (.beq 0x12) ∧
    read [0x30, 0x12] = some (.bmi 0x12) ∧ read [0xD0, 0x12] = some (.bne 0x12) ∧ read [0x10, 0x12] = some (.bpl 0x12) ∧
    read [0x50, 0x12] = some (.bvc 0x12) ∧ read [0x70, 0x12] = some (.bvs 0x12) ∧
    read [0x4C, 0x12, 0x34] = some (.jmp 0x3412) ∧ read [0x6C, 0x12, 0x34] = some (.jmpInd 0x3412) ∧
    read [0x20, 0x12, 0x34] = some (.jsr 0x3412) ∧ read [0x60] = some (.rts) := by
  decide +kernel

/-- R261 to R276. -/
theorem test_decode_flags_system :
    read [0x18] = some (.clc) ∧ read [0xD8] = some (.cld) ∧ read [0x58] = some (.cli) ∧ read [0xB8] = some (.clv) ∧
    read [0x38] = some (.sec) ∧ read [0xF8] = some (.sed) ∧ read [0x78] = some (.sei) ∧ read [0xEA] = some (.nop) ∧
    read [0x00] = some (.brk) ∧ read [0x40] = some (.rti) := by
  decide +kernel

/-- The 105 ILLEGAL rows of the map of R117 decode to the illegal instruction of their byte, and are the bytes R119 lists. -/
theorem test_illegal_rows : ∀ op ∈ illegalOpcodes, read [BitVec.ofNat 8 op] = some (.illegal (BitVec.ofNat 8 op)) := by decide +kernel
/-- A list too short for its opcode does not decode. -/
theorem test_truncated : decode [] = .error .noOpcode ∧ decode [0xA9] = .error .truncated ∧ decode [0x6C, 0x00] = .error .truncated :=
  ⟨rfl, rfl, rfl⟩

/-- Table words: the first byte is bits 7..0; bits from `nbits` up do not count. -/
theorem test_table_words :
    decodeTableWord 24 0x20078D = some (.sta (.abs 0x2007)) ∧ decodeTableWord 8 0xFFEA = some .nop ∧
    decodeTableWord 8 0x69 = some (.adc (.imm 0)) := by decide +kernel

/-! ### One CPU step: the vectors of sections 2.1 to 2.10 -/

/-- The start of a vector: code at 0x8000 of a 16K PRG, NMI and IRQ vectors 0x9000, reset vector 0x8000; registers, status
and RAM as given. -/
def start (a x y sp p : Byte) (ram : List (Nat × Byte)) (code : List Byte) : State :=
  { State.reset with
    cpu := { Cpu.reset with a := a, x := x, y := y, sp := sp, pc := 0x8000, p := Flags.reset.restore p }
    ram := ram.foldl (fun m c => Store.write m c.1 c.2) []
    cart := { Cartridge.blank with
      prg := Memory.ofBytes 0 code ++ Memory.ofBytes 0x3FFA [0x00, 0x90, 0x00, 0x80, 0x00, 0x90] } }

/-- The state after one CPU step, and its count. -/
def stepped (s : State) : Option (State × Nat) :=
  match cpuStep s with
  | .next r => some r
  | _ => none

/-- What a vector names: the registers, the status byte and the count. -/
structure Regs where
  a  : Byte
  x  : Byte
  y  : Byte
  sp : Byte
  p  : Byte
  pc : Addr
  c  : Nat
  deriving DecidableEq, Repr

/-- The registers after one CPU step. -/
def regs (s : State) : Option Regs :=
  (stepped s).map fun r => ⟨r.1.cpu.a, r.1.cpu.x, r.1.cpu.y, r.1.cpu.sp, r.1.cpu.p.pushByte r.1.cpu.p.b, r.1.cpu.pc, r.2⟩

/-- RAM cells after one CPU step. -/
def cells (s : State) (addrs : List Nat) : Option (List Byte) := (stepped s).map fun r => addrs.map r.1.ram.read

/-- AM1 to AM8 and AM10: each effective address, by what is loaded. -/
theorem test_addressing_modes :
    regs (start 0 0x20 0 0xFD 0x24 [(0x10, 0x33)] [0xB5, 0xF0]) = some ⟨0x33, 0x20, 0, 0xFD, 0x24, 0x8002, 4⟩ ∧
    regs (start 0 0 0x02 0xFD 0x24 [(0x01, 0x44)] [0xB6, 0xFF]) = some ⟨0, 0x44, 0x02, 0xFD, 0x24, 0x8002, 4⟩ ∧
    regs (start 0 0x20 0 0xFD 0x24 [(0x310, 0x7E)] [0xBD, 0xF0, 0x02]) = some ⟨0x7E, 0x20, 0, 0xFD, 0x24, 0x8003, 5⟩ ∧
    regs (start 0 0 0x05 0xFD 0x24 [(0x305, 0x01)] [0xB9, 0x00, 0x03]) = some ⟨0x01, 0, 0x05, 0xFD, 0x24, 0x8003, 4⟩ ∧
    regs (start 0 0x04 0 0xFD 0x24 [(0x24, 0x05), (0x25, 0x03), (0x305, 0x99)] [0xA1, 0x20]) =
      some ⟨0x99, 0x04, 0, 0xFD, 0xA4, 0x8002, 6⟩ ∧
    regs (start 0 0 0 0xFD 0x24 [(0xFF, 0x10), (0x00, 0x03), (0x310, 0x22)] [0xA1, 0xFF]) =
      some ⟨0x22, 0, 0, 0xFD, 0x24, 0x8002, 6⟩ ∧
    regs (start 0 0 0x10 0xFD 0x24 [(0x86, 0xF8), (0x87, 0x02), (0x308, 0x11)] [0xB1, 0x86]) =
      some ⟨0x11, 0, 0x10, 0xFD, 0x24, 0x8002, 6⟩ ∧
    regs (start 0 0x01 0 0xFD 0x24 [(0x300, 0x5A)] [0xBD, 0xFF, 0x02]) = some ⟨0x5A, 0x01, 0, 0xFD, 0x24, 0x8003, 5⟩ ∧
    regs (start 0 0x01 0 0xFD 0x24 [(0x00, 0x5B)] [0xBD, 0xFF, 0xFF]) = some ⟨0x5B, 0x01, 0, 0xFD, 0x24, 0x8003, 5⟩ := by
  decide +kernel

/-- LS1, LS2, LS5 to LS7: flags of loads and transfers. -/
theorem test_load_transfer :
    regs (start 0x05 0 0 0xFD 0x24 [] [0xA9, 0x00]) = some ⟨0, 0, 0, 0xFD, 0x26, 0x8002, 2⟩ ∧
    regs (start 0 0 0 0xFD 0x24 [] [0xA9, 0x80]) = some ⟨0x80, 0, 0, 0xFD, 0xA4, 0x8002, 2⟩ ∧
    regs (start 0 0x07 0 0xFD 0x24 [] [0xAA]) = some ⟨0, 0, 0, 0xFD, 0x26, 0x8001, 2⟩ ∧
    regs (start 0 0 0 0x80 0x24 [] [0xBA]) = some ⟨0, 0x80, 0, 0x80, 0xA4, 0x8001, 2⟩ ∧
    regs (start 0 0 0 0xFD 0x26 [] [0x9A]) = some ⟨0, 0, 0, 0, 0x26, 0x8001, 2⟩ := by decide +kernel

/-- LS3, LS4, AM9: stores, a mirror, and no penalty. -/
theorem test_stores :
    regs (start 0x5A 0 0 0xFD 0x24 [] [0x8D, 0x00, 0x08]) = some ⟨0x5A, 0, 0, 0xFD, 0x24, 0x8003, 4⟩ ∧
    cells (start 0x5A 0 0 0xFD 0x24 [] [0x8D, 0x00, 0x08]) [0] = some [0x5A] ∧
    cells (start 0x01 0x20 0 0xFD 0x24 [] [0x9D, 0xF0, 0x02]) [0x310] = some [0x01] ∧
    regs (start 0 0x01 0 0xFD 0x24 [(0x300, 0x77)] [0x9D, 0xFF, 0x02]) = some ⟨0, 0x01, 0, 0xFD, 0x24, 0x8003, 5⟩ ∧
    cells (start 0 0x01 0 0xFD 0x24 [(0x300, 0x77)] [0x9D, 0xFF, 0x02]) [0x300] = some [0] := by decide +kernel

/-- ST1 to ST6. -/
theorem test_stack :
    regs (start 0 0 0 0xFD 0x24 [] [0x08]) = some ⟨0, 0, 0, 0xFC, 0x24, 0x8001, 3⟩ ∧
    cells (start 0 0 0 0xFD 0x24 [] [0x08]) [0x1FD] = some [0x34] ∧
    cells (start 0 0 0 0xFD 0xE7 [] [0x08]) [0x1FD] = some [0xF7] ∧
    regs (start 0 0 0 0xFC 0x20 [(0x1FD, 0xFF)] [0x28]) = some ⟨0, 0, 0, 0xFD, 0xEF, 0x8001, 4⟩ ∧
    regs (start 0x05 0 0 0xFC 0x24 [] [0x68]) = some ⟨0, 0, 0, 0xFD, 0x26, 0x8001, 4⟩ ∧
    regs (start 0x77 0 0 0x00 0x24 [] [0x48]) = some ⟨0x77, 0, 0, 0xFF, 0x24, 0x8001, 3⟩ ∧
    cells (start 0x77 0 0 0x00 0x24 [] [0x48]) [0x100] = some [0x77] ∧
    regs (start 0 0 0 0xFF 0x24 [(0x100, 0x80)] [0x68]) = some ⟨0x80, 0, 0, 0x00, 0xA4, 0x8001, 4⟩ := by decide +kernel

/-- AR1 to AR14: result, C, Z, V, N. -/
theorem test_binary_arithmetic :
    adcBinary 0x7F 0x01 false = { r := 0x80, c := false, z := false, v := true, n := true } ∧
    adcBinary 0xFF 0x01 false = { r := 0x00, c := true, z := true, v := false, n := false } ∧
    adcBinary 0x80 0x80 false = { r := 0x00, c := true, z := true, v := true, n := false } ∧
    adcBinary 0xFF 0xFF true = { r := 0xFF, c := true, z := false, v := false, n := true } ∧
    adcBinary 0x10 0x22 true = { r := 0x33, c := false, z := false, v := false, n := false } ∧
    adcBinary 0x50 0x50 false = { r := 0xA0, c := false, z := false, v := true, n := true } ∧
    adcBinary 0x00 0x00 false = { r := 0x00, c := false, z := true, v := false, n := false } ∧
    sbcBinary 0x00 0x01 true = { r := 0xFF, c := false, z := false, v := false, n := true } ∧
    sbcBinary 0x80 0x01 true = { r := 0x7F, c := true, z := false, v := true, n := false } ∧
    sbcBinary 0x50 0xB0 true = { r := 0xA0, c := false, z := false, v := true, n := true } ∧
    sbcBinary 0x42 0x42 true = { r := 0x00, c := true, z := true, v := false, n := false } ∧
    sbcBinary 0x42 0x42 false = { r := 0xFF, c := false, z := false, v := false, n := true } ∧
    sbcBinary 0x50 0x10 true = { r := 0x40, c := true, z := false, v := false, n := false } ∧
    sbcBinary 0x00 0x80 true = { r := 0x80, c := false, z := false, v := true, n := true } := by decide

/-- BCD1 to BCD9. -/
theorem test_decimal_arithmetic :
    adcDecimal 0x58 0x46 true = { r := 0x05, c := true, z := false, v := true, n := true } ∧
    adcDecimal 0x12 0x34 false = { r := 0x46, c := false, z := false, v := false, n := false } ∧
    adcDecimal 0x99 0x01 false = { r := 0x00, c := true, z := false, v := false, n := true } ∧
    adcDecimal 0x15 0x26 false = { r := 0x41, c := false, z := false, v := false, n := false } ∧
    adcDecimal 0x81 0x92 false = { r := 0x73, c := true, z := false, v := true, n := false } ∧
    sbcDecimal 0x46 0x12 true = { r := 0x34, c := true, z := false, v := false, n := false } ∧
    sbcDecimal 0x40 0x13 true = { r := 0x27, c := true, z := false, v := false, n := false } ∧
    sbcDecimal 0x00 0x01 true = { r := 0x99, c := false, z := false, v := false, n := true } ∧
    sbcDecimal 0x32 0x02 false = { r := 0x29, c := true, z := false, v := false, n := false } := by decide

/-- BCD1 as a step under each `DECIMAL_MODE`: with D = 1, decimal under nmos and binary when ignored. -/
theorem test_decimal_mode :
    regs { start 0x58 0 0 0xFD 0x2D [] [0x69, 0x46] with cfg := { Params.default with decimalMode := .nmos } } =
      some ⟨0x05, 0, 0, 0xFD, 0xED, 0x8002, 2⟩ ∧
    regs (start 0x58 0 0 0xFD 0x2D [] [0x69, 0x46]) = some ⟨0x9F, 0, 0, 0xFD, 0xEC, 0x8002, 2⟩ := by decide +kernel

/-- CP1 to CP4, ID1 to ID4. -/
theorem test_compare_inc_dec :
    regs (start 0x40 0 0 0xFD 0x24 [] [0xC9, 0x40]) = some ⟨0x40, 0, 0, 0xFD, 0x27, 0x8002, 2⟩ ∧
    regs (start 0x40 0 0 0xFD 0x25 [] [0xC9, 0x41]) = some ⟨0x40, 0, 0, 0xFD, 0xA4, 0x8002, 2⟩ ∧
    regs (start 0xFF 0 0 0xFD 0x24 [] [0xC9, 0x01]) = some ⟨0xFF, 0, 0, 0xFD, 0xA5, 0x8002, 2⟩ ∧
    regs (start 0 0 0 0xFD 0x25 [] [0xE0, 0x80]) = some ⟨0, 0, 0, 0xFD, 0xA4, 0x8002, 2⟩ ∧
    regs (start 0 0 0 0xFD 0x24 [(0x10, 0xFF)] [0xE6, 0x10]) = some ⟨0, 0, 0, 0xFD, 0x26, 0x8002, 5⟩ ∧
    cells (start 0 0 0 0xFD 0x24 [(0x10, 0xFF)] [0xE6, 0x10]) [0x10] = some [0] ∧
    cells (start 0 0 0 0xFD 0x24 [] [0xC6, 0x10]) [0x10] = some [0xFF] ∧
    regs (start 0 0xFF 0 0xFD 0x24 [] [0xE8]) = some ⟨0, 0, 0, 0xFD, 0x26, 0x8001, 2⟩ ∧
    regs (start 0 0 0 0xFD 0x24 [] [0x88]) = some ⟨0, 0, 0xFF, 0xFD, 0xA4, 0x8001, 2⟩ := by decide +kernel

/-- LG1 to LG5. -/
theorem test_logic :
    regs (start 0xF0 0 0 0xFD 0x24 [] [0x29, 0x0F]) = some ⟨0, 0, 0, 0xFD, 0x26, 0x8002, 2⟩ ∧
    regs (start 0x01 0 0 0xFD 0x24 [] [0x09, 0x80]) = some ⟨0x81, 0, 0, 0xFD, 0xA4, 0x8002, 2⟩ ∧
    regs (start 0xFF 0 0 0xFD 0x24 [] [0x49, 0xFF]) = some ⟨0, 0, 0, 0xFD, 0x26, 0x8002, 2⟩ ∧
    regs (start 0x01 0 0 0xFD 0x24 [(0x10, 0xC0)] [0x24, 0x10]) = some ⟨0x01, 0, 0, 0xFD, 0xE6, 0x8002, 3⟩ ∧
    regs (start 0xFF 0 0 0xFD 0xE4 [(0x10, 0x3F)] [0x24, 0x10]) = some ⟨0xFF, 0, 0, 0xFD, 0x24, 0x8002, 3⟩ := by decide +kernel

/-- SH1 to SH7. -/
theorem test_shifts :
    regs (start 0x81 0 0 0xFD 0x24 [] [0x0A]) = some ⟨0x02, 0, 0, 0xFD, 0x25, 0x8001, 2⟩ ∧
    regs (start 0x01 0 0 0xFD 0x24 [] [0x4A]) = some ⟨0x00, 0, 0, 0xFD, 0x27, 0x8001, 2⟩ ∧
    regs (start 0x80 0 0 0xFD 0x25 [] [0x2A]) = some ⟨0x01, 0, 0, 0xFD, 0x25, 0x8001, 2⟩ ∧
    regs (start 0x01 0 0 0xFD 0x25 [] [0x6A]) = some ⟨0x80, 0, 0, 0xFD, 0xA5, 0x8001, 2⟩ ∧
    regs (start 0x01 0 0 0xFD 0x24 [] [0x6A]) = some ⟨0x00, 0, 0, 0xFD, 0x27, 0x8001, 2⟩ ∧
    regs (start 0 0 0 0xFD 0x24 [(0x10, 0x40)] [0x06, 0x10]) = some ⟨0, 0, 0, 0xFD, 0xA4, 0x8002, 5⟩ ∧
    cells (start 0 0 0 0xFD 0x24 [(0x10, 0x40)] [0x06, 0x10]) [0x10] = some [0x80] ∧
    regs (start 0 0x01 0 0xFD 0x25 [(0x10, 0x7F)] [0x36, 0x0F]) = some ⟨0, 0x01, 0, 0xFD, 0xA4, 0x8002, 6⟩ ∧
    cells (start 0 0x01 0 0xFD 0x25 [(0x10, 0x7F)] [0x36, 0x0F]) [0x10] = some [0xFF] := by decide +kernel

/-- BR1 to BR5, AM13. -/
theorem test_branches :
    regs (start 0 0 0 0xFD 0x24 [] [0xD0, 0x10]) = some ⟨0, 0, 0, 0xFD, 0x24, 0x8012, 3⟩ ∧
    regs (start 0 0 0 0xFD 0x26 [] [0xD0, 0x10]) = some ⟨0, 0, 0, 0xFD, 0x26, 0x8002, 2⟩ ∧
    regs (start 0 0 0 0xFD 0x26 [] [0xF0, 0xFE]) = some ⟨0, 0, 0, 0xFD, 0x26, 0x8000, 3⟩ ∧
    regs (start 0 0 0 0xFD 0x24 [] [0x90, 0x80]) = some ⟨0, 0, 0, 0xFD, 0x24, 0x7F82, 4⟩ ∧
    regs (start 0 0 0 0xFD 0x24 [] [0x30, 0x05]) = some ⟨0, 0, 0, 0xFD, 0x24, 0x8002, 2⟩ ∧
    regs (start 0 0 0 0xFD 0x24 [] [0x50, 0x7F]) = some ⟨0, 0, 0, 0xFD, 0x24, 0x8081, 3⟩ := by decide +kernel

/-- JS1 to JS3, JM1, JM2, AM11. -/
theorem test_jumps :
    regs (start 0 0 0 0xFD 0x24 [] [0x20, 0x00, 0x90]) = some ⟨0, 0, 0, 0xFB, 0x24, 0x9000, 6⟩ ∧
    cells (start 0 0 0 0xFD 0x24 [] [0x20, 0x00, 0x90]) [0x1FD, 0x1FC] = some [0x80, 0x02] ∧
    regs (start 0 0 0 0xFB 0x24 [(0x1FC, 0x02), (0x1FD, 0x80)] [0x60]) = some ⟨0, 0, 0, 0xFD, 0x24, 0x8003, 6⟩ ∧
    regs (start 0 0 0 0xFB 0x24 [(0x1FC, 0xFF), (0x1FD, 0xFF)] [0x60]) = some ⟨0, 0, 0, 0xFD, 0x24, 0x0000, 6⟩ ∧
    regs (start 0 0 0 0xFD 0x24 [] [0x4C, 0x00, 0x80]) = some ⟨0, 0, 0, 0xFD, 0x24, 0x8000, 3⟩ ∧
    regs (start 0 0 0 0xFD 0x24 [(0x200, 0x34), (0x201, 0x12)] [0x6C, 0x00, 0x02]) = some ⟨0, 0, 0, 0xFD, 0x24, 0x1234, 5⟩ ∧
    regs (start 0 0 0 0xFD 0x24 [(0xFF, 0x34), (0x00, 0x12), (0x100, 0x56)] [0x6C, 0xFF, 0x10]) =
      some ⟨0, 0, 0, 0xFD, 0x24, 0x1234, 5⟩ := by decide +kernel

/-- FL1 to FL8. -/
theorem test_flag_instructions :
    regs (start 0 0 0 0xFD 0x24 [] [0xF8]) = some ⟨0, 0, 0, 0xFD, 0x2C, 0x8001, 2⟩ ∧
    regs (start 0 0 0 0xFD 0x2C [] [0xD8]) = some ⟨0, 0, 0, 0xFD, 0x24, 0x8001, 2⟩ ∧
    regs (start 0 0 0 0xFD 0x64 [] [0xB8]) = some ⟨0, 0, 0, 0xFD, 0x24, 0x8001, 2⟩ ∧
    regs (start 0 0 0 0xFD 0x20 [] [0x78]) = some ⟨0, 0, 0, 0xFD, 0x24, 0x8001, 2⟩ ∧
    regs (start 0 0 0 0xFD 0x24 [] [0x58]) = some ⟨0, 0, 0, 0xFD, 0x20, 0x8001, 2⟩ ∧
    regs (start 0 0 0 0xFD 0x24 [] [0x38]) = some ⟨0, 0, 0, 0xFD, 0x25, 0x8001, 2⟩ ∧
    regs (start 0 0 0 0xFD 0x25 [] [0x18]) = some ⟨0, 0, 0, 0xFD, 0x24, 0x8001, 2⟩ ∧
    regs (start 0 0 0 0xFD 0x24 [] [0xEA]) = some ⟨0, 0, 0, 0xFD, 0x24, 0x8001, 2⟩ := by decide +kernel

/-- BK1, BK2, RI1. -/
theorem test_break_and_return :
    regs (start 0 0 0 0xFD 0x20 [] [0x00, 0xEA]) = some ⟨0, 0, 0, 0xFA, 0x24, 0x9000, 7⟩ ∧
    cells (start 0 0 0 0xFD 0x20 [] [0x00, 0xEA]) [0x1FD, 0x1FC, 0x1FB] = some [0x80, 0x02, 0x30] ∧
    cells (start 0 0 0 0xFD 0x24 [] [0x00, 0xEA]) [0x1FB] = some [0x34] ∧
    regs (start 0 0 0 0xFA 0x24 [(0x1FB, 0xC3), (0x1FC, 0x34), (0x1FD, 0x12)] [0x40]) =
      some ⟨0, 0, 0, 0xFD, 0xE3, 0x1234, 6⟩ := by decide +kernel

/-- IL1, IL2: the count, the anomaly, the fault bit. -/
theorem test_illegal_policy :
    (stepped (start 0 0 0 0xFD 0x24 [] [0x02, 0xA9])).map (fun r => (r.1.cpu.pc, r.1.cpu.anomalyCount, r.1.cpu.fault, r.2)) =
      some (0x8001, 1, false, 1) ∧
    (stepped { start 0 0 0 0xFD 0x24 [] [0x02] with cfg := { Params.default with illegalPolicy := .fatal } }).map
      (fun r => (r.1.cpu.pc, r.1.cpu.anomalyCount, r.1.cpu.fault, r.2)) = some (0x8001, 1, true, 0) := by decide +kernel

/-! ### Interrupts and reset: IN1, IN2, IN4, IN5 -/

/-- A start with pending flags (reset, NMI, IRQ) and a PC. -/
def pending (rst nmi irq : Bool) (sp p : Byte) (pc : Addr) : State :=
  let s := start 0 0 0 sp p [] []
  s.setCpu { s.cpu with pc := pc, resetPending := rst, nmiPending := nmi, irqPending := irq }

theorem test_interrupt_service :
    regs (pending false true false 0xFD 0xA4 0x800D) = some ⟨0, 0, 0, 0xFA, 0xA4, 0x9000, 7⟩ ∧
    cells (pending false true false 0xFD 0xA4 0x800D) [0x1FD, 0x1FC, 0x1FB] = some [0x80, 0x0D, 0xA4] ∧
    regs (pending false false true 0xFD 0x21 0x8123) = some ⟨0, 0, 0, 0xFA, 0x25, 0x9000, 7⟩ ∧
    cells (pending false false true 0xFD 0x21 0x8123) [0x1FD, 0x1FC, 0x1FB] = some [0x81, 0x23, 0x21] ∧
    (stepped (pending false true true 0xFD 0x20 0x8000)).map (fun r => (r.1.cpu.nmiPending, r.1.cpu.irqPending)) =
      some (false, true) ∧
    regs (pending true true false 0x10 0x20 0x1234) = some ⟨0, 0, 0, 0xFD, 0x24, 0x8000, 0⟩ := by decide +kernel

/-! ### The bus, the PPU registers and memory, the ports: sections 3.1 to 3.3 and 3.7 -/

/-- A PPU with CIRAM and palette as given and `v` (E5, PM vectors). -/
def video (ciram : List (Nat × Byte)) (palette : List (Nat × BitVec 6)) (v : Vaddr) : State :=
  { State.reset with ppu := { Ppu.reset with ciram := ciram, palette := palette, v := v } }

/-- PPU-DATA-1, PPU-DATA-3 (its buffer), PPU-V-WRAP. -/
theorem test_data_reads :
    (memRead 0x2007 (video [(0, 0xAA), (1, 0xBB)] [] 0x2000)).1 = 0 ∧
    (memRead 0x2007 (video [(0, 0xAA), (1, 0xBB)] [] 0x2000)).2.ppu.readBuffer = 0xAA ∧
    (memRead 0x2007 (video [(0, 0xAA), (1, 0xBB)] [] 0x2000)).2.ppu.v = 0x2001 ∧
    (memRead 0x2007 (video [(0x700, 0x5C)] [(0, 0x0F)] 0x3F00)).2.ppu.readBuffer = 0x5C ∧
    (memRead 0x2007 (video [] [] 0x7FFF)).2.ppu.v = 0 := by decide +kernel

/-- PM1 to PM4: where Data writes land. -/
theorem test_data_writes :
    (memWrite 0x2007 0x77 (video [] [] 0x2405)).ppu.ciram = [(0x005, 0x77)] ∧
    (memWrite 0x2007 0x77 { video [] [] 0x2805 with cart := { Cartridge.blank with mirroring := .vertical } }).ppu.ciram =
      [(0x005, 0x77)] ∧
    (memWrite 0x2007 0x77 (video [] [] 0x3005)).ppu.ciram = [(0x005, 0x77)] ∧
    (memWrite 0x2007 0xFF (video [] [] 0x3F10)).ppu.palette = [(0x00, 0x3F)] ∧
    (memWrite 0x2007 0x42 (video [] [] 0x0000)).chrRam = [(0x0000, 0x42)] := by decide +kernel

/-- PPU-SCROLL, PPU-ADDR, PPU-CTRL-T. -/
theorem test_scroll_and_address :
    (memWrite 0x2005 0x7D State.reset).ppu.t = 0x000F ∧ (memWrite 0x2005 0x7D State.reset).ppu.x = 5 ∧
    (memWrite 0x2005 0x5E (memWrite 0x2005 0x7D State.reset)).ppu.t = 0x616F ∧
    (memWrite 0x2006 0xFF State.reset).ppu.t = 0x3F00 ∧
    (memWrite 0x2006 0x10 (memWrite 0x2006 0xFF State.reset)).ppu.v = 0x3F10 ∧
    (ctrlWrite Params.default 0x03 { Ppu.reset with t := 0x1234 }).t = 0x1E34 := by decide +kernel

/-- PPU-CTRL-NMI, PPU-OAM-1, PPU-OAM-2. -/
theorem test_control_and_oam :
    (ctrlWrite Params.default 0x80 { Ppu.reset with vblank := true }).nmiRequest = true ∧
    (ctrlWrite Params.default 0x80 { Ppu.reset with vblank := true, ctrl := 0x80 }).nmiRequest = false ∧
    (ctrlWrite Params.default 0x80 Ppu.reset).nmiRequest = false ∧
    (ctrlWrite { Params.default with nmiOnCtrlEnable := false } 0x80 { Ppu.reset with vblank := true }).nmiRequest = false ∧
    (oamDataWrite 0x22 (oamDataWrite 0x11 { Ppu.reset with oamAddr := 0xFE })).oam = [(0xFE, 0x11), (0xFF, 0x22)] ∧
    (oamDataWrite 0x22 (oamDataWrite 0x11 { Ppu.reset with oamAddr := 0xFE })).oamAddr = 0x00 ∧
    oamDataRead { Ppu.reset with oamAddr := 0x02, oam := [(0x02, 0xFF)] } = 0xE3 := by decide +kernel

/-- BU1 (E3), BU6, BU7, and a cartridge read in each bank image of a 16K PRG (E7). -/
theorem test_bus_windows :
    (memRead 0x1805 (memWrite 0x0005 0x5A State.reset)).1 = 0x5A ∧
    (memWrite 0x8000 0x11 State.reset).cart = State.reset.cart ∧
    ({ Cartridge.blank with prg := [(0x4000, 0x99)], prgSize := .two16K }).prgByte 0xC000 = 0x99 ∧
    ({ Cartridge.blank with prg := [(0x0000, 0x98)] }).prgByte 0xC000 = 0x98 := by decide +kernel

/-- IO1: the first read and, one shift later, the second; IO2: no shift while strobed. -/
theorem test_controller_port :
    (controllerStrobe 0x00 (controllerStrobe 0x01 { Io.reset with buttons1 := 0x09 })).shift1 = 0x09 ∧
    ({ Io.reset with shift1 := 0x09 }).serialBit .one = true ∧
    (({ Io.reset with shift1 := 0x09 }).afterRead .one).shift1 = 0x84 ∧
    (({ Io.reset with shift1 := 0x09, strobe := true }).afterRead .one).shift1 = 0x09 := by decide

/-- E6: the stall is 514 when the write ends on an odd cycle and 513 on an even one; three bytes of the copy, from `oam_addr` 0xFF. -/
theorem test_oam_dma :
    (dmaCycles ((State.reset).spend 3087)).1 = 514 ∧ (dmaCycles ((State.reset).spend 3088)).1 = 513 ∧
    (oamDmaCopy 0x02 3 0 { State.reset with ram := [(0x201, 0x11), (0x202, 0x22)], ppu := { Ppu.reset with oamAddr := 0xFF } }).ppu.oam =
      [(0x00, 0x11), (0x01, 0x22)] := by decide +kernel

/-- E7: headers that load and headers that are refused; a container is given by its first eight bytes and its length. -/
theorem test_container_refusals :
    loadContainer [0x4E, 0x45, 0x53] = .error .formatError ∧
    loadContainer ([0x4E, 0x45, 0x53, 0x1B, 0, 0, 0, 0] ++ List.replicate 8 0) = .error .formatError ∧
    loadContainer ([0x4E, 0x45, 0x53, 0x1A, 1, 0, 0, 0] ++ List.replicate 8 0) = .error .formatError ∧
    loadContainer ([0x4E, 0x45, 0x53, 0x1A, 0, 0, 0x10, 0] ++ List.replicate 8 0) = .error .unsupportedMapper ∧
    loadContainer ([0x4E, 0x45, 0x53, 0x1A, 0, 0, 0, 0] ++ List.replicate 8 0) = .error .unsupportedCartridge := by
  refine ⟨rfl, rfl, rfl, rfl, rfl⟩

/-! ### The PPU: sections 3.4 to 3.6 -/

/-- The environment of the PPU vectors: CHR RAM as given, horizontal mirroring, default parameters. -/
def scene (chrRam : List (Nat × Byte)) : PpuEnv := { cfg := Params.default, cart := Cartridge.blank, chrRam := chrRam }

/-- SC1 to SC8. -/
theorem test_scroll_counters :
    incCoarseX 0x001F = 0x0400 ∧ incCoarseX 0x041F = 0x0000 ∧ incCoarseX 0x0005 = 0x0006 ∧ incY 0x1000 = 0x2000 ∧
    incY 0x73A0 = 0x0800 ∧ incY 0x73E0 = 0x0000 ∧ copyHorizontal 0x0415 0 = 0x0415 ∧ copyVertical 0x7BE0 0 = 0x7BE0 := by decide

/-- PT1 to PT3, PT5, PT7. -/
theorem test_dots :
    (ppuStep (scene []) { Ppu.reset with scanline := 241, ctrl := 0x80 }).vblank = true ∧
    (ppuStep (scene []) { Ppu.reset with scanline := 241, ctrl := 0x80 }).nmiRequest = true ∧
    (ppuStep (scene []) { Ppu.reset with scanline := 261, dot := 279, vblank := true }).vblank = false ∧
    (ppuStep (scene []) { Ppu.reset with scanline := 261, dot := 340 }).frameReady = true ∧
    (ppuStep (scene []) { Ppu.reset with dot := 340 }).scanline = 1 ∧
    (ppuStep (scene []) { Ppu.reset with palette := [(0, 0x0F)], scanline := 2 }).fb = [(512, 0x00F)] := by decide +kernel

/-- The scene of RB1 to RB3: tile 1 with attribute 3 at the top left. -/
def background : Ppu := { Ppu.reset with mask := 0x1E, ciram := [(0x000, 0x01), (0x3C0, 0x03)], palette := [(0x00, 0x01), (0x0D, 0x2A)] }

theorem test_background_pixels :
    bgPixel (scene [(0x010, 0x80)]) background 0 = (1, 3) ∧
    (renderPixel (scene [(0x010, 0x80)]) 0 0 background).fb = [(0, 0x02A)] ∧
    (renderPixel (scene [(0x010, 0x80)]) 0 1 background).fb = [(1, 0x001)] ∧
    (bgPixel (scene [(0x010, 0x80)]) { background with lineFineX := 1 } 0).1 = 0 ∧
    (renderPixel (scene [(0x010, 0x80)]) 0 0 { background with mask := 0x1C }).fb = [(0, 0x001)] := by decide +kernel

/-- OAM with its first bytes as given and every other sprite off the screen. -/
def objects (bytes : List Byte) : Memory := Memory.ofBytes 0 (bytes ++ List.replicate (256 - bytes.length) 0xFF)

/-- RS1, RS4: the latch of sprite 0 for line 10, plain and flipped; nothing on the line of a position out of range. -/
theorem test_sprite_latch :
    (evaluateSprites (scene [(0x020, 0xFF)]) 9 { Ppu.reset with mask := 0x1E, oam := objects [9, 2, 0, 0x10] }).lineSprites =
      [{ n := 0, x := 0x10, attr := 0, lo := 0xFF, hi := 0 }] ∧
    (evaluateSprites (scene [(0x020, 0x80)]) 9 { Ppu.reset with mask := 0x1E, oam := objects [9, 2, 0x40, 0x10] }).lineSprites =
      [{ n := 0, x := 0x10, attr := 0x40, lo := 0x01, hi := 0 }] ∧
    (evaluateSprites (scene [(0x027, 0x55)]) 9 { Ppu.reset with mask := 0x1E, oam := objects [9, 2, 0x80, 0x10] }).lineSprites =
      [{ n := 0, x := 0x10, attr := 0x80, lo := 0x55, hi := 0 }] := by decide +kernel

/-- RS2, RS3: the hit is set whatever the priority, and not at x = 255. -/
theorem test_sprite_zero_hit :
    (renderPixel (scene [(0x020, 0xFF)]) 10 0x10
      { background with ciram := [(0x002, 0x02)], lineSprites := [{ n := 0, x := 0x10, attr := 0x20, lo := 0xFF, hi := 0 }] }).sprite0Hit =
        true ∧
    (renderPixel (scene [(0x020, 0xFF)]) 10 0xFF
      { background with ciram := [(0x01F, 0x02)], lineSprites := [{ n := 0, x := 0xF8, attr := 0, lo := 0x01, hi := 0 }] }).sprite0Hit =
        false := by decide +kernel

/-- RS5, RS6: the ninth sprite, and the two overflow searches. -/
theorem test_sprite_overflow :
    (evaluateSprites (scene []) 9 { Ppu.reset with mask := 0x1E, oam := objects (List.replicate 36 9) }).spriteOverflow = true ∧
    overflowHardware (objects (List.replicate 32 9 ++ [0xFF, 0xFF, 0xFF, 0xFF, 0xFF, 9])) 9 8 56 8 0 = true ∧
    overflowIdeal (objects (List.replicate 32 9 ++ [0xFF, 0xFF, 0xFF, 0xFF, 0xFF, 9])) 9 8 56 8 = false := by decide +kernel

/-- RC1, PT7. -/
theorem test_cell : ({ Ppu.reset with mask := 0x21 }).cell 0x2D = 0x060 ∧ (Ppu.reset).cell 0x0F = 0x00F := by decide

/-! ### The iteration: SY1, SY2, SY4, and `withFetchWord` -/

/-- The count of dots and cycles of an iteration. -/
def position (s : State) : Option (Nat × Nat × Nat) :=
  match step s with
  | .next t => some (t.ppu.scanline, t.ppu.dot, t.cpu.cycles)
  | _ => none

theorem test_dots_per_cycle :
    position (start 0 0 0 0xFD 0x24 [] [0xEA]) = some (0, 6, 2) ∧
    position (pending false true false 0xFD 0x24 0x8000) = some (0, 21, 7) ∧
    position (pending true false false 0xFD 0x24 0x8000) = some (0, 0, 0) := by decide +kernel

/-- The A register after the step that `withFetchWord` sets up from reset, and after one from a PC in the register window. -/
def accAfter (s : State) : Option Byte :=
  match step s with
  | .next t => some t.cpu.a
  | _ => none

theorem test_with_fetch_word :
    accAfter (State.reset.withFetchWord 16 0x42A9) = some 0x42 ∧
    accAfter ((State.reset.setPc 0x2000).withFetchWord 16 0x42A9) = some 0x42 ∧
    accAfter ((State.reset.setPc 0x8000).withFetchWord 16 0x42A9) = some 0x42 := by decide +kernel

/-! ### Witnesses: for every obligation with hypotheses, what meets them, clause by clause -/

theorem test_witness_decode_encode :
    (Instr.lda (.mem (.izy 0x12))).wellFormed = true ∧ (Instr.ror .acc).wellFormed = true ∧ (Instr.illegal 0xFF).wellFormed = true ∧
    decode [0xB1, 0x12, 0x99] = .ok (.lda (.mem (.izy 0x12)), [0x99]) := ⟨rfl, rfl, rfl, rfl⟩

theorem test_witness_every_opcode_byte :
    illegalOpcodes.contains (0x02 : Byte).toNat = true ∧ illegalOpcodes.contains (0xFF : Byte).toNat = true ∧
    illegalOpcodes.contains (0x00 : Byte).toNat = false ∧ illegalOpcodes.contains (0xFE : Byte).toNat = false := by decide

/-- An LDA whose opcode is at 0xFFFF and whose operand is at 0x0000. -/
def wrapping : State :=
  { State.reset with
    cpu := { Cpu.reset with pc := 0xFFFF }, ram := [(0x0000, 0x42)], cart := { Cartridge.blank with prg := [(0x3FFF, 0xA9)] } }

/-- StepRunsTheDecodedInstruction, with the fetch across the end of the address space. -/
theorem test_witness_step_runs :
    RunsInstruction wrapping ∧ decode [0xA9, 0x42] = .ok (.lda (.imm 0x42), []) ∧ ([0xA9, 0x42] : List Byte).getLast? = some 0x42 ∧
    ∀ (k : Nat) (b : Byte), ([0xA9, 0x42] : List Byte)[k]? = some b → plainByte wrapping (wrapping.cpu.pc + BitVec.ofNat 16 k) = some b := by
  refine ⟨⟨rfl, rfl⟩, rfl, rfl, fun k b h => ?_⟩
  match k, h with
  | 0, h => cases h; decide +kernel
  | 1, h => cases h; decide +kernel
  | k + 2, h => simp at h

/-- StepAnswersUnlessFaulted, FaultedMachineStops. -/
theorem test_witness_fault_bit :
    State.reset.cpu.fault = false ∧ (State.reset.setCpu { Cpu.reset with fault := true }).cpu.fault = true := ⟨rfl, rfl⟩

/-- The last position of a frame, with a full list of latches and one cell of each memory, at its last number. -/
def lastDot : State :=
  let s := start 0 0 0 0xFD 0x24 [(0x7FF, 1)] [0xEA]
  { s with
    chrRam := [(8191, 1)]
    ppu := { Ppu.reset with
      scanline := 261, dot := 340, lineSprites := List.replicate 8 { n := 63, x := 0, attr := 0, lo := 0, hi := 0 }
      oam := [(255, 1)], ciram := [(2047, 1)], palette := [(31, 1)], fb := [(61439, 1)], fbOut := [(61439, 1)] } }

theorem test_inv_lastDot : Inv lastDot where
  cpu := ⟨rfl, rfl⟩
  ppu := ⟨by decide, by decide, by decide, by decide, by decide, by decide, by decide, by decide, by decide⟩
  ram := by decide +kernel
  chrRam := by decide
  cart := ⟨by decide +kernel, fun _ h => nomatch h⟩
  cfg := by decide

/-- Whether a step answers a next state. -/
def runs (s : State) : Bool :=
  match step s with
  | .next _ => true
  | _ => false

theorem step_of_runs {s : State} (h : runs s = true) : ∃ t, step s = .next t := by
  cases hs : step s <;> simp_all [runs]

/-- StepKeepsInvariant, ConfigurationNeverChanges, BreakIsKeptAndUnusedIsSetOnlyByReset: a state with the invariant that steps. -/
theorem test_witness_invariant : Inv lastDot ∧ ∃ t, step lastDot = .next t := ⟨test_inv_lastDot, step_of_runs (by decide +kernel)⟩

/-- CycleCounterOnlyIncreases, BreakIsKeptAndUnusedIsSetOnlyByReset: a step with no reset pending, and one that serves a reset. -/
theorem test_witness_cycle_counter :
    (lastDot.cpu.resetPending = false ∧ ∃ t, step lastDot = .next t) ∧
    ((pending true false false 0xFD 0x24 0x8000).cpu.resetPending = true ∧
      ∃ t, step (pending true false false 0xFD 0x24 0x8000) = .next t) :=
  ⟨⟨rfl, step_of_runs (by decide +kernel)⟩, ⟨rfl, step_of_runs (by decide +kernel)⟩⟩

/-- CycleCountOfAStep: a count of 0, of 7 and of 517 (a DMA that an STA to 0x4014 starts and that ends on an even cycle). -/
theorem test_witness_cycle_count :
    (pending true false false 0xFD 0x24 0x8000).cpu.dmaStall = 0 ∧
    (stepped (pending true false false 0xFD 0x24 0x8000)).map Prod.snd = some 0 ∧
    (pending false true false 0xFD 0x24 0x8000).cpu.dmaStall = 0 ∧
    (stepped (pending false true false 0xFD 0x24 0x8000)).map Prod.snd = some 7 ∧
    (start 0x02 0 0 0xFD 0x24 [] [0x8D, 0x14, 0x40]).cpu.dmaStall = 0 ∧
    (stepped (start 0x02 0 0 0xFD 0x24 [] [0x8D, 0x14, 0x40])).map Prod.snd = some 517 := by decide +kernel

/-- LaunchHasInvariantAndLaunchValues. -/
theorem test_witness_launch :
    Cartridge.blank.Kept ∧ Params.default.wf ∧ LaunchDraws.zero.ram.fits 2048 ∧ LaunchDraws.zero.chrRam.fits 8192 ∧
    LaunchDraws.zero.oam.fits 256 ∧ LaunchDraws.zero.ciram.fits 2048 ∧ LaunchDraws.zero.palette.fits 32 :=
  ⟨⟨by decide, fun _ h => nomatch h⟩, by decide, by decide, by decide, by decide, by decide, by decide⟩

/-- InterruptServiceBuildsTheFrame, ReturnUndoesInterrupt (with the state the entry leaves as the RTI's). -/
theorem test_witness_interrupt :
    ((0xFFFA : Addr) = 0xFFFA ∨ (0xFFFA : Addr) = 0xFFFE) ∧ ((0xFFFE : Addr) = 0xFFFA ∨ (0xFFFE : Addr) = 0xFFFE) ∧
    ∃ w, exec .rti (enterInterrupt 0x8002 true 0xFFFE State.reset) = .next w := ⟨.inl rfl, .inr rfl, _, rfl⟩

/-- NmiIsServicedUnconditionally, IrqIsServicedWhenEnabled (I clear, I set), ResetIsServedFirst. -/
theorem test_witness_events :
    ((pending false true true 0xFD 0x24 0x8000).cpu.fault = false ∧ (pending false true true 0xFD 0x24 0x8000).cpu.resetPending = false ∧
      (pending false true true 0xFD 0x24 0x8000).cpu.nmiPending = true) ∧
    ((pending false false true 0xFD 0x20 0x8000).cpu.irqPending = true ∧ (pending false false true 0xFD 0x20 0x8000).cpu.p.i = false) ∧
    ((pending false false true 0xFD 0x24 0x8000).cpu.irqPending = true ∧ (pending false false true 0xFD 0x24 0x8000).cpu.p.i = true) ∧
    (pending true true true 0xFD 0x24 0x8000).cpu.resetPending = true := by decide

/-- A state with a decimal mode and a status byte. -/
def decimalState (mode : DecimalMode) (p : Byte) : State :=
  { start 0 0 0 0xFD p [] [] with cfg := { Params.default with decimalMode := mode } }

/-- AdcSbcComplete: decimal on, and off for each of its two reasons. -/
theorem test_witness_decimal :
    ((decimalState .nmos 0x2C).cfg.decimalMode = .nmos ∧ (decimalState .nmos 0x2C).cpu.p.d = true) ∧
    ¬((decimalState .ignored 0x2C).cfg.decimalMode = .nmos ∧ (decimalState .ignored 0x2C).cpu.p.d = true) ∧
    ¬((decimalState .nmos 0x24).cfg.decimalMode = .nmos ∧ (decimalState .nmos 0x24).cpu.p.d = true) := by decide

/-- DecimalArithmeticIsBcd, at the ends of the digits' range and across a carry: 99 + 01, 00 - 01. -/
theorem test_witness_bcd :
    9 ≤ 9 ∧ 0 ≤ 9 ∧ (adcDecimal (BitVec.ofNat 8 (16 * 9 + 9)) (BitVec.ofNat 8 (16 * 0 + 1)) false).r.toNat = 0 ∧
    (sbcDecimal (BitVec.ofNat 8 (16 * 0 + 0)) (BitVec.ofNat 8 (16 * 0 + 1)) true).r.toNat = 0x99 := by decide

/-- RotateRightUndoesRotateLeft. -/
theorem test_witness_rotates :
    (∃ t u, exec (.rol .acc) State.reset = .next t ∧ exec (.ror .acc) t = .next u) ∧
    ∃ t u, exec (.ror .acc) State.reset = .next t ∧ exec (.rol .acc) t = .next u := ⟨⟨_, _, rfl, rfl⟩, ⟨_, _, rfl, rfl⟩⟩

/-- ReturnUndoesCall, with the state the call leaves as the return's. -/
theorem test_witness_call :
    ∃ t w, exec (.jsr 0x9000) State.reset = .next t ∧ t.cpu.sp = t.cpu.sp ∧
      (∀ k, 0x100 ≤ k → k ≤ 0x1FF → t.ram.read k = t.ram.read k) ∧ exec .rts t = .next w :=
  ⟨_, _, rfl, rfl, fun _ _ _ => rfl, rfl⟩

/-- IllegalOpcodePolicy: an illegal byte, under each policy. -/
theorem test_witness_illegal :
    illegalOpcodes.contains (0x02 : Byte).toNat = true ∧ State.reset.cfg.illegalPolicy = .nop1 ∧
    ({ State.reset with cfg := { Params.default with illegalPolicy := .fatal } }).cfg.illegalPolicy = .fatal := by decide

/-- ReadInstructionsFrame: an immediate, BIT, and an effective address below and above the devices and inside them. -/
theorem test_witness_read_frame :
    (∃ t, exec (.lda (.imm 0)) State.reset = .next t) ∧ (∃ t, exec (.bit (.abs 0x2002)) State.reset = .next t) ∧
    (∃ t, exec (.sbc (.mem (.abs 0x1FFF))) State.reset = .next t) ∧ (resolve (.abs 0x1FFF) State.reset).1.ea.toNat < 0x2000 ∧
    (∃ t, exec (.cmp (.mem (.abs 0x4020))) State.reset = .next t) ∧ 0x4020 ≤ (resolve (.abs 0x4020) State.reset).1.ea.toNat :=
  ⟨⟨_, rfl⟩, ⟨_, rfl⟩, ⟨_, rfl⟩, by decide, ⟨_, rfl⟩, by decide⟩

/-- StoreInstructionsFrame and ModifyInstructionsFrame: the ends of RAM and of the device windows, OAM data, Data, the DMA port. -/
theorem test_witness_store_frame :
    (∃ t, exec (.sta (.abs 0x1FFF)) State.reset = .next t) ∧ (resolve (.abs 0x1FFF) State.reset).1.ea.toNat ≤ 0x1FFF ∧
    (∃ t, exec (.inc (.abs 0x2000)) State.reset = .next t) ∧ (resolve (.abs 0x2000) State.reset).1.ea.toNat = 0x2000 ∧
    (∃ t, exec (.ror (.mem (.abs 0x2004))) State.reset = .next t) ∧ (resolve (.abs 0x2004) State.reset).1.ea.toNat % 8 = 4 ∧
    (∃ t, exec (.stx (.abs 0x3FFF)) State.reset = .next t) ∧ (resolve (.abs 0x3FFF) State.reset).1.ea.toNat % 8 = 7 ∧
    (∃ t, exec (.sty (.abs 0x4014)) State.reset = .next t) ∧ (resolve (.abs 0x4014) State.reset).1.ea = 0x4014 ∧
    (∃ t, exec (.asl (.mem (.abs 0x4020))) State.reset = .next t) ∧ 0x4020 ≤ (resolve (.abs 0x4020) State.reset).1.ea.toNat :=
  ⟨⟨_, rfl⟩, by decide, ⟨_, rfl⟩, by decide, ⟨_, rfl⟩, by decide, ⟨_, rfl⟩, by decide, ⟨_, rfl⟩, by decide, ⟨_, rfl⟩, by decide⟩

/-- RegisterInstructionsFrame, StackInstructionsFrame: one instruction of each group runs. -/
theorem test_witness_register_and_stack_frame :
    (∃ t, exec .tax State.reset = .next t) ∧ (∃ t, exec .dey State.reset = .next t) ∧ (∃ t, exec (.asl .acc) State.reset = .next t) ∧
    (∃ t, exec .sei State.reset = .next t) ∧ (∃ t, exec (.bne 0xFE) State.reset = .next t) ∧ (∃ t, exec .txs State.reset = .next t) ∧
    (∃ t, exec .pha State.reset = .next t) ∧ (∃ t, exec (.jsr 0x9000) State.reset = .next t) ∧
    (∃ t, exec .brk State.reset = .next t) ∧ (∃ t, exec .rti State.reset = .next t) ∧ ∃ t, exec (.jmpInd 0x10FF) State.reset = .next t :=
  ⟨⟨_, rfl⟩, ⟨_, rfl⟩, ⟨_, rfl⟩, ⟨_, rfl⟩, ⟨_, rfl⟩, ⟨_, rfl⟩, ⟨_, rfl⟩, ⟨_, rfl⟩, ⟨_, rfl⟩, ⟨_, rfl⟩, ⟨_, rfl⟩⟩

/-- RamMirrors (the last RAM address and a mirror of it, and an address that is none), OamDmaCopiesThePage (the last page of
RAM, the first and the last of PRG, a page of neither, the last byte of a page, under each cycle mode). -/
theorem test_witness_ram_and_dma :
    (0x1FFF : Addr).toNat ≤ 0x1FFF ∧ (0x07FF : Addr).toNat % 0x800 = (0x1FFF : Addr).toNat % 0x800 ∧
    (0x0000 : Addr).toNat % 0x800 ≠ (0x1FFF : Addr).toNat % 0x800 ∧ (0x1F : Byte).toNat < 0x20 ∧
    0x80 ≤ (0x80 : Byte).toNat ∧ 0x80 ≤ (0xFF : Byte).toNat ∧ ¬(0x20 : Byte).toNat < 0x20 ∧ ¬0x80 ≤ (0x7F : Byte).toNat ∧ 255 < 256 ∧
    State.reset.cfg.dmaCycles = .parity ∧ ({ State.reset with cfg := { Params.default with dmaCycles := .draw } }).cfg.dmaCycles = .draw := by
  decide

/-- A container: the header's magic, its four bytes, 8 reserved bytes and a body of zeros. -/
def container (prgN chrN flags6 flags7 : Byte) (body : Nat) : List Byte :=
  [0x4E, 0x45, 0x53, 0x1A, prgN, chrN, flags6, flags7] ++ List.replicate (8 + body) 0

theorem container_length (prgN chrN flags6 flags7 : Byte) (body : Nat) :
    (container prgN chrN flags6 flags7 body).length = 16 + body := by
  simp only [container, List.length_append, List.length_replicate, List.length_cons, List.length_nil]
  omega

/-- ConfigurationNeverChanges, the container: whole at the last byte and one byte short of it, with and without the trainer;
mapper 0 and the lowest other number in each nibble; each supported size at its ends, and the least unsupported ones. -/
theorem test_witness_container :
    (16 ≤ (container 1 0 0 0 16384).length ∧ (container 1 0 0 0 16384).take 4 = [0x4E, 0x45, 0x53, 0x1A] ∧
      16 + 16384 * 1 + 8192 * 0 ≤ (container 1 0 0 0 16384).length) ∧
    ¬16 + 16384 * 1 + 8192 * 0 ≤ (container 1 0 0 0 16383).length ∧
    ((container 2 1 5 0 41472).getD 6 0).getLsbD 2 = true ∧ 528 + 16384 * 2 + 8192 * 1 ≤ (container 2 1 5 0 41472).length ∧
    (((container 1 0 0 0 16384).getD 6 0).extractLsb' 4 4 = 0 ∧ ((container 1 0 0 0 16384).getD 7 0).extractLsb' 4 4 = 0) ∧
    ((container 1 0 0x10 0 16384).getD 6 0).extractLsb' 4 4 ≠ 0 ∧ ((container 1 0 0 0x10 16384).getD 7 0).extractLsb' 4 4 ≠ 0 ∧
    (((container 1 0 0 0 16384).getD 4 0).toNat = 1 ∧ ((container 1 0 0 0 16384).getD 5 0).toNat = 0 ∧
      ((container 1 0 0 0 16384).getD 6 0).getLsbD 3 = false) ∧
    (((container 2 1 5 0 41472).getD 4 0).toNat = 2 ∧ ((container 2 1 5 0 41472).getD 5 0).toNat = 1 ∧
      ((container 2 1 5 0 41472).getD 6 0).getLsbD 3 = false) ∧
    ((container 0 0 0 0 0).getD 4 0).toNat = 0 ∧ ((container 1 2 0 0 32768).getD 5 0).toNat = 2 ∧
    ((container 1 0 8 0 16384).getD 6 0).getLsbD 3 = true := by
  simp only [container_length]
  refine ⟨⟨by omega, rfl, by omega⟩, by omega, ?_, by omega, ?_⟩ <;> decide +kernel

/-- ConfigurationNeverChanges, the window: its first address, the last without PRG, the first with it, the last of the lower
half of PRG and the last of all, with one bank. -/
theorem test_witness_cartridge_window :
    0x4020 ≤ (0x4020 : Addr).toNat ∧ (0x4020 : Addr).toNat < 0x8000 ∧ (0x7FFF : Addr).toNat < 0x8000 ∧
    0x8000 ≤ (0x8000 : Addr).toNat ∧ (0xBFFF : Addr).toNat < 0xC000 ∧ 0x8000 ≤ (0xFFFF : Addr).toNat ∧
    ¬(0xC000 : Addr).toNat < 0xC000 ∧ State.reset.cart.prgSize = .one16K := by decide

/-- PpuRegisterReads and PpuRegisterWrites: an address of each select at the ends of the window, Data on each side of the
nametables' and the palette's first address, CHR RAM and CHR ROM, and the toggle in each position. -/
theorem test_witness_ppu_registers :
    0x2000 ≤ (0x2000 : Addr).toNat ∧ (0x2000 : Addr).toNat % 8 ∈ [0, 1, 3, 5, 6] ∧ (0x3FFF : Addr).toNat ≤ 0x3FFF ∧
    (0x3FFF : Addr).toNat % 8 = 7 ∧ (0x2002 : Addr).toNat % 8 = 2 ∧ (0x3FFC : Addr).toNat % 8 = 4 ∧ (0x2001 : Addr).toNat % 8 = 1 ∧
    (0x3FFB : Addr).toNat % 8 = 3 ∧ (0x2005 : Addr).toNat % 8 = 5 ∧ (0x3FFE : Addr).toNat % 8 = 6 ∧
    ((video [] [] 0x7EFF).ppu.v.extractLsb' 0 14).toNat < 0x3F00 ∧ 0x3F00 ≤ ((video [] [] 0x3F00).ppu.v.extractLsb' 0 14).toNat ∧
    ((video [] [] 0x5FFF).ppu.v.extractLsb' 0 14).toNat ≤ 0x1FFF ∧ 0x2000 ≤ ((video [] [] 0x6000).ppu.v.extractLsb' 0 14).toNat ∧
    State.reset.cart.chr = .none ∧ ({ Cartridge.blank with chr := .rom [] }).chr ≠ .none ∧
    State.reset.ppu.w = false ∧ (memWrite 0x2005 0 State.reset).ppu.w = true := by decide

/-- ControllerSerialOrder: the two strobe bytes, and the window's addresses where its clauses meet; DotsAdvanceThePosition: the first and the last position, one frame of dots. -/
theorem test_witness_ports_and_dots :
    (0xFF : Byte).getLsbD 0 = true ∧ (0xFE : Byte).getLsbD 0 = false ∧ 0x4000 ≤ (0x4000 : Addr).toNat ∧
    (0x4013 : Addr).toNat ≤ 0x4017 ∧ (0x4013 : Addr) ≠ 0x4014 ∧ (0x4015 : Addr).toNat ≤ 0x4017 ∧ (0x4015 : Addr) ≠ 0x4016 ∧
    (0x4017 : Addr).toNat ≤ 0x4017 ∧ 0x4018 ≤ (0x4018 : Addr).toNat ∧ (0x401F : Addr).toNat ≤ 0x401F ∧ (0x4018 : Addr) ≠ 0x4017 ∧
    Ppu.reset.scanline ≤ 261 ∧ Ppu.reset.dot ≤ 340 ∧
    lastDot.ppu.scanline ≤ 261 ∧ lastDot.ppu.dot ≤ 340 ∧ 89342 ≤ 89342 := by decide

/-- VblankAndStatusEvents: a dot that reaches each of the two positions, and one that reaches neither. -/
theorem test_witness_status_events :
    ((ppuStep (scene []) { Ppu.reset with scanline := 241 }).scanline = 241 ∧ (ppuStep (scene []) { Ppu.reset with scanline := 241 }).dot = 1) ∧
    ((ppuStep (scene []) { Ppu.reset with scanline := 261, dot := 279 }).scanline = 261 ∧
      (ppuStep (scene []) { Ppu.reset with scanline := 261, dot := 279 }).dot = (scene []).cfg.preRenderClearDot) ∧
    (ppuStep (scene []) Ppu.reset).scanline = 0 := by decide

/-- OAM with its first nine sprites on line 20 and the rest off the screen. -/
def crowded : Ppu := { Ppu.reset with mask := 0x1E, oam := objects (List.replicate 36 20) }

/-- SpriteEvaluationTakesTheFirstEight: the last visible line, the line after it, rendering off; eight sprites latched, the
last with a later one in range, so that each search finds it. -/
theorem test_witness_sprites :
    239 ≤ 239 ∧ background.renderingEnabled = true ∧ 240 > 239 ∧ Ppu.reset.renderingEnabled = false ∧ crowded.renderingEnabled = true ∧
    (evaluateSprites (scene []) 20 crowded).lineSprites.length = 8 ∧ (crowded.oam.read (4 * 8)).toNat ≤ 20 ∧ 7 < 8 ∧ 8 < 64 ∧
    20 - (crowded.oam.read (4 * 8)).toNat < 8 ∧ 7 + 1 + 0 < 64 ∧ (scene []).cfg.overflowMode = .hardware ∧
    ({ Params.default with overflowMode := .ideal }).overflowMode = .ideal := by decide +kernel

/-- PixelCompositionAndSpriteZeroHit: each side of the left column and of the last pixel; with and without rendering. -/
theorem test_witness_pixels :
    8 ≤ 8 ∧ ¬8 ≤ 7 ∧ 254 ≠ 255 ∧ background.renderingEnabled = true ∧ Ppu.reset.renderingEnabled = false ∧
    (bgPixel (scene [(0x010, 0x80)]) background 0).1 ≠ 0 ∧
    (⟨0, 0, 0, 0x80, 0⟩ : SpriteLatch).pixel 0 ≠ 0 := by decide +kernel

/-- WhatADotChanges: the positions where its clauses meet, on a rendering line with rendering on (dots 256, 257, 280, 304, 320
and 328), at the ends of the visible pixels, at the frame's last position and with rendering off. -/
theorem test_witness_dot :
    (∀ d, d = 0 ∨ d = 255 ∨ d = 256 ∨ d = 279 ∨ d = 303 ∨ d = 319 ∨ d = 327 →
      (ppuStep (scene []) { background with scanline := 261, dot := d }).dot = d + 1) ∧
    (ppuStep (scene []) { background with scanline := 261 }).scanline = 261 ∧ background.renderingEnabled = true ∧
    ((ppuStep (scene []) { background with scanline := 239, dot := 255 }).scanline ≤ 239 ∧
      (ppuStep (scene []) { background with scanline := 239, dot := 255 }).dot ≤ 256) ∧
    (lastDot.ppu.scanline = 261 ∧ lastDot.ppu.dot = 340) ∧ Ppu.reset.renderingEnabled = false := by
  refine ⟨?_, by decide +kernel⟩
  rintro d (rfl | rfl | rfl | rfl | rfl | rfl | rfl) <;> decide +kernel

/-- 10_state.md R58 and 70_reset_and_hazards.md R493: a reset keeps the bus latch (log 23). -/
theorem test_reset_keeps_bus_latch : (resetAction (State.reset.setLatch 0x5A)).io.cpuBusLatch = 0x5A := by decide

end Sys2Proof.Tests
end

namespace Sys2Proof.Machine

/-! PROOFS. The family 10_state.md: what every step keeps of the state (O8, O16, O17, O19) and the faulted machine (O7).

A step is a CPU step and then `afterCpu` (53_synchronizer.md R430). `CpuStepEffect` says once, for the reset, the two interrupt
services and an instruction alike, what the CPU step does to the fields these statements speak of; `afterCpu_fields` says what
follows. -/

/-! ### The invariant, part by part -/

theorem Inv.memoriesKept {s : State} (h : Inv s) : MemoriesKept s :=
  ⟨h.ram, h.chrRam, h.ppu.oam, h.ppu.ciram, h.ppu.palette⟩

/-- What an instruction or an interrupt service does keeps the invariant, with any CPU that meets its part of it. -/
theorem Inv.afterExec {s u : State} (h : Inv s) (e : ExecEffect s u) {c : Cpu} (hc : c.Kept) : Inv (u.setCpu c) := by
  have k := e.kept h.memoriesKept
  have hppu : u.ppu.Kept := by
    have oam := k.oam
    have ciram := k.ciram
    have palette := k.palette
    rw [e.ppu] at oam ciram palette ⊢
    exact ⟨h.ppu.scanline, h.ppu.dot, h.ppu.sprites, h.ppu.spriteIds, oam, ciram, palette, h.ppu.fb, h.ppu.fbOut⟩
  exact ⟨hc, hppu, k.ram, k.chrRam, e.cart ▸ h.cart, e.cfg ▸ h.cfg⟩

/-- The dots, the hand-off, the NMI delivery and the IRQ sample keep the invariant. -/
theorem Inv.afterCpu {s : State} (h : Inv s) (c : Nat) : Inv (afterCpu c s) := by
  obtain ⟨ppu, cpu, ram, chrRam, cart, cfg⟩ := afterCpu_fields c s
  refine ⟨?_, ?_, ram ▸ h.ram, chrRam ▸ h.chrRam, cart ▸ h.cart, cfg ▸ h.cfg⟩
  · rw [cpu]
    exact ⟨h.cpu.unusedSet, h.cpu.noStall⟩
  · have k := ppuRun_kept s.env (3 * c) h.ppu
    rw [ppu]
    exact ⟨k.scanline, k.dot, k.sprites, k.spriteIds, k.oam, k.ciram, k.palette, k.fb, k.fbOut⟩

/-! ### The CPU step -/

theorem stepKind_reset_iff (c : Cpu) : stepKind c = .reset ↔ c.resetPending = true := by
  cases hr : c.resetPending
  · simp only [stepKind, hr]
    split
    · contradiction
    · split
      · simp
      · split <;> simp
  · simp [stepKind, hr]

/-- What the CPU step of an iteration, from `s` to `u`, does to the state: a reset sets the stored U and zeroes the cycle
counter, and nothing else does (70_reset_and_hazards.md R490). -/
structure CpuStepEffect (s u : State) : Prop where
  inv         : Inv s → Inv u
  brk         : u.cpu.p.b = s.cpu.p.b
  unused      : u.cpu.p.u = if s.cpu.resetPending then true else s.cpu.p.u
  cycles      : s.cpu.resetPending = false → s.cpu.cycles ≤ u.cpu.cycles
  cyclesReset : s.cpu.resetPending = true → u.cpu.cycles = 0
  cart        : u.cart = s.cart
  cfg         : u.cfg = s.cfg

/-- Serving a reset changes the CPU alone. -/
theorem resetAction_cpuStep {s : State} (hr : s.cpu.resetPending = true) : CpuStepEffect s (resetAction s) := by
  rw [resetAction_eq]
  exact
    { inv := fun h => h.afterExec (ReadEffect.refl s).toExec ⟨rfl, rfl⟩
      brk := rfl
      unused := by rw [hr]; rfl
      cycles := fun h => by simp [hr] at h
      cyclesReset := fun _ => rfl
      cart := rfl
      cfg := rfl }

/-- What an instruction or an interrupt service does, and then a change of the CPU that keeps P, adds to the cycle counter and
leaves no stall behind. -/
theorem ExecEffect.cpuStep {s u : State} (e : ExecEffect s u) (hr : s.cpu.resetPending = false) {c : Cpu} (hp : c.p = u.cpu.p)
    (hc : u.cpu.cycles ≤ c.cycles) (hs : s.cpu.dmaStall = 0 → c.dmaStall = 0) : CpuStepEffect s (u.setCpu c) where
  inv := fun h => h.afterExec e ⟨by rw [hp, e.unused, h.cpu.unusedSet], hs h.cpu.noStall⟩
  brk := by rw [State.setCpu_cpu, hp, e.brk]
  unused := by rw [State.setCpu_cpu, hp, e.unused, hr]; rfl
  cycles := fun _ => e.cycles.trans hc
  cyclesReset := fun h => by simp [hr] at h
  cart := e.cart
  cfg := e.cfg

theorem serviceInterrupt_exec (vector : Addr) (s : State) : ExecEffect s (serviceInterrupt vector s) :=
  enterInterrupt_exec _ _ _ s

/-- An interrupt service writes RAM through the stack alone, so it starts no DMA. -/
theorem serviceInterrupt_dmaStall {vector : Addr} (h : vector = 0xFFFA ∨ vector = 0xFFFE) (s : State) :
    (serviceInterrupt vector s).cpu.dmaStall = s.cpu.dmaStall := by
  obtain ⟨hlo, hhi⟩ := vector_bounds h
  rw [serviceInterrupt, enterInterrupt_eq _ _ hlo hhi]

theorem serviceNmi_cpuStep {s : State} (hr : s.cpu.resetPending = false) : CpuStepEffect s (serviceNmi s) :=
  (serviceInterrupt_exec nmiVector s).cpuStep hr rfl (Nat.le_add_right _ 7)
    fun h => (serviceInterrupt_dmaStall (.inl rfl) s).trans h

theorem serviceIrq_cpuStep {s : State} (hr : s.cpu.resetPending = false) : CpuStepEffect s (serviceIrq s) :=
  (serviceInterrupt_exec irqVector s).cpuStep hr rfl (Nat.le_add_right _ 7)
    fun h => (serviceInterrupt_dmaStall (.inr rfl) s).trans h

/-- A stall that an instruction starts is settled before its CPU step ends (30_encoding.md R118). -/
theorem settleStall_cpuStep {s u : State} (e : ExecEffect s u) (hr : s.cpu.resetPending = false) :
    CpuStepEffect s (settleStall u) :=
  e.cpuStep hr rfl (Nat.le_add_right _ _) fun _ => rfl

/-- Every step is a CPU step, with no more effect than `CpuStepEffect`, and what follows it. -/
theorem step_effect {s t : State} (h : step s = .next t) : ∃ c u, CpuStepEffect s u ∧ t = afterCpu c u := by
  have noReset {k : StepKind} (hk : stepKind s.cpu = k) (hne : k ≠ .reset) : s.cpu.resetPending = false :=
    Bool.eq_false_iff.2 fun hr => hne (hk.symm.trans ((stepKind_reset_iff _).2 hr))
  obtain ⟨hk, ht⟩ | ⟨hk, ht⟩ | ⟨hk, ht⟩ | ⟨hk, u, e, ht⟩ := step_cases h
  · exact ⟨_, _, resetAction_cpuStep ((stepKind_reset_iff _).1 hk), ht⟩
  · exact ⟨_, _, serviceNmi_cpuStep (noReset hk (by decide)), ht⟩
  · exact ⟨_, _, serviceIrq_cpuStep (noReset hk (by decide)), ht⟩
  · exact ⟨_, _, settleStall_cpuStep e (noReset hk (by decide)), ht⟩

/-- After the CPU step, P and the cycle counter stay. -/
theorem afterCpu_p_cycles (c : Nat) (s : State) :
    (afterCpu c s).cpu.p = s.cpu.p ∧ (afterCpu c s).cpu.cycles = s.cpu.cycles := by
  obtain ⟨-, cpu, -⟩ := afterCpu_fields c s
  rw [cpu]
  exact ⟨rfl, rfl⟩

/-- After the CPU step, the cartridge and the parameters stay. -/
theorem afterCpu_config (c : Nat) (s : State) : (afterCpu c s).cart = s.cart ∧ (afterCpu c s).cfg = s.cfg := by
  obtain ⟨-, -, -, -, cart, cfg⟩ := afterCpu_fields c s
  exact ⟨cart, cfg⟩

/-- Settles O8: the CPU step keeps the invariant, and so does what follows it. -/
theorem stepKeepsInvariant : Obligations.StepKeepsInvariant := by
  intro s t hs h
  obtain ⟨c, u, e, rfl⟩ := step_effect h
  exact (e.inv hs).afterCpu c

/-- Settles O17: by `step_effect`, and no part of the iteration after the CPU step writes P. -/
theorem breakIsKeptAndUnusedIsSetOnlyByReset : Obligations.BreakIsKeptAndUnusedIsSetOnlyByReset := by
  intro s t h
  obtain ⟨c, u, e, rfl⟩ := step_effect h
  rw [(afterCpu_p_cycles c u).1]
  exact ⟨e.brk, e.unused⟩

/-- Settles O19: by `step_effect`, and no part of the iteration after the CPU step counts a cycle. -/
theorem cycleCounterOnlyIncreases : Obligations.CycleCounterOnlyIncreases := by
  intro s t h
  obtain ⟨c, u, e, rfl⟩ := step_effect h
  rw [(afterCpu_p_cycles c u).2]
  exact ⟨e.cycles, e.cyclesReset⟩

/-- Settles O7: an iteration tests the fault bit before anything else. -/
theorem faultedMachineStops : Obligations.FaultedMachineStops := by
  intro s h
  rw [step, iterate, if_pos h]

/-! ### The container (20_memory.md R86) -/

/-- The count of 16K PRG banks in the header. -/
abbrev containerPrgBanks (c : List Byte) : Nat := (c.getD 4 0).toNat

/-- The count of 8K CHR banks in the header. -/
abbrev containerChrBanks (c : List Byte) : Nat := (c.getD 5 0).toNat

/-- Where PRG begins: past the header, and past the trainer where there is one. -/
abbrev containerBody (c : List Byte) : Nat := if (c.getD 6 0).getLsbD 2 then 528 else 16

/-- The container has its signature and its whole body. -/
abbrev ContainerWhole (c : List Byte) : Prop :=
  16 ≤ c.length ∧ c.take 4 = [0x4E, 0x45, 0x53, 0x1A] ∧
    containerBody c + 16384 * containerPrgBanks c + 8192 * containerChrBanks c ≤ c.length

/-- The container names mapper 0. -/
abbrev ContainerMapper0 (c : List Byte) : Prop := (c.getD 6 0).extractLsb' 4 4 = 0 ∧ (c.getD 7 0).extractLsb' 4 4 = 0

/-- The container has bank counts and flags a cartridge of the block can have. -/
abbrev ContainerSupported (c : List Byte) : Prop :=
  (containerPrgBanks c = 1 ∨ containerPrgBanks c = 2) ∧ (containerChrBanks c = 0 ∨ containerChrBanks c = 1) ∧
    (c.getD 6 0).getLsbD 3 = false

/-- The memory of `n` bytes of a container, from the byte at `off`. -/
def containerMemory (c : List Byte) (off n : Nat) : Memory := Memory.ofBytes 0 ((c.drop off).take n)

/-- The cartridge a container describes. -/
def containerCartridge (c : List Byte) : Cartridge where
  prg       := containerMemory c (containerBody c) (16384 * containerPrgBanks c)
  prgSize   := if containerPrgBanks c = 1 then .one16K else .two16K
  chr       :=
    if containerChrBanks c = 0 then .none
    else .rom (containerMemory c (containerBody c + 16384 * containerPrgBanks c) 8192)
  mirroring := if (c.getD 6 0).getLsbD 0 then .vertical else .horizontal

theorem nibbles_eq_zero_iff (hi lo : BitVec 4) : hi ++ lo = (0 : Byte) ↔ lo = 0 ∧ hi = 0 := by
  revert hi lo
  decide

/-- The load of a container, by its three tests in their order. -/
theorem loadContainer_eq (c : List Byte) :
    loadContainer c =
      if ¬ContainerWhole c then .error .formatError
      else if ¬ContainerMapper0 c then .error .unsupportedMapper
      else if ¬ContainerSupported c then .error .unsupportedCartridge
      else .ok (containerCartridge c) := by
  have body : 16 + (if (c.getD 6 0).getLsbD 2 then 512 else 0) = containerBody c := by
    simp only [containerBody]
    split <;> rfl
  have whole : ((c.length < 16 ∨ c.take 4 ≠ [0x4E, 0x45, 0x53, 0x1A]) ∨
      c.length < containerBody c + 16384 * containerPrgBanks c + 8192 * containerChrBanks c) ↔ ¬ContainerWhole c := by
    simp only [ContainerWhole, not_and_or, not_le, or_assoc, ne_eq]
  have supported : (¬(containerPrgBanks c = 1 ∨ containerPrgBanks c = 2) ∨
      ¬(containerChrBanks c = 0 ∨ containerChrBanks c = 1) ∨ (c.getD 6 0).getLsbD 3 = true) ↔ ¬ContainerSupported c := by
    simp only [ContainerSupported, not_and_or, Bool.not_eq_false]
  simp only [loadContainer, body, ← ite_or]
  exact if_congr whole rfl (if_congr (not_congr (nibbles_eq_zero_iff _ _)) rfl (if_congr supported rfl rfl))

theorem loadContainer_of_not_whole {c : List Byte} (hw : ¬ContainerWhole c) : loadContainer c = .error .formatError := by
  rw [loadContainer_eq, if_pos hw]

theorem loadContainer_of_not_mapper0 {c : List Byte} (hw : ContainerWhole c) (hm : ¬ContainerMapper0 c) :
    loadContainer c = .error .unsupportedMapper := by
  rw [loadContainer_eq, if_neg (not_not.2 hw), if_pos hm]

theorem loadContainer_of_not_supported {c : List Byte} (hw : ContainerWhole c) (hm : ContainerMapper0 c)
    (hs : ¬ContainerSupported c) : loadContainer c = .error .unsupportedCartridge := by
  rw [loadContainer_eq, if_neg (not_not.2 hw), if_neg (not_not.2 hm), if_pos hs]

theorem loadContainer_of_supported {c : List Byte} (hw : ContainerWhole c) (hm : ContainerMapper0 c)
    (hs : ContainerSupported c) : loadContainer c = .ok (containerCartridge c) := by
  rw [loadContainer_eq, if_neg (not_not.2 hw), if_neg (not_not.2 hm), if_neg (not_not.2 hs)]

theorem containerMemory_fits (c : List Byte) (off n : Nat) : (containerMemory c off n).fits n := by
  have h := Memory.fits_ofBytes ((c.drop off).take n) 0
  exact ⟨h.1, fun d hd => lt_of_lt_of_le (h.2 d hd) (by simp)⟩

theorem containerMemory_read (c : List Byte) {off n k : Nat} (h : k < n) :
    (containerMemory c off n).read k = c.getD (off + k) 0 := by
  rw [containerMemory, ← Nat.zero_add k, Memory.read_ofBytes, Nat.zero_add]
  simp [List.getD_eq_getElem?_getD, h]

/-- The memories of a supported container have the sizes of 00_scope.md R8. -/
theorem containerCartridge_kept {c : List Byte} (h : ContainerSupported c) : (containerCartridge c).Kept where
  prg := by
    have size : (containerCartridge c).prgSize.bytes = 16384 * containerPrgBanks c := by
      rcases h.1 with h1 | h2
      · simp only [containerCartridge, h1, if_true]; rfl
      · simp only [containerCartridge, h2]; rfl
    rw [size]
    exact containerMemory_fits _ _ _
  chr := by
    intro bytes hb
    simp only [containerCartridge] at hb
    split at hb
    · contradiction
    · cases hb
      exact containerMemory_fits _ _ _

/-! ### The cartridge window (20_memory.md R77) -/

theorem prgByte_eq (c : Cartridge) (a : Addr) :
    c.prgByte a = c.prg.read ((a.toNat - 0x8000) % (if c.prgSize = .one16K then 16384 else 32768)) := by
  rw [Cartridge.prgByte]
  cases c.prgSize <;> rfl

/-- One bank shows at 0x8000 and again at 0xC000. -/
theorem prgByte_mirror {c : Cartridge} (hc : c.prgSize = .one16K) {a : Addr} (h : 0x8000 ≤ a.toNat) (h' : a.toNat < 0xC000) :
    c.prgByte (a + 0x4000) = c.prgByte a := by
  have offset : (a + 0x4000).toNat - 0x8000 = a.toNat - 0x8000 + 16384 := by bv_omega
  rw [Cartridge.prgByte, Cartridge.prgByte, hc, offset, PrgSize.bytes, Nat.add_mod_right]

theorem memRead_mirror {s : State} (hc : s.cart.prgSize = .one16K) {a : Addr} (h : 0x8000 ≤ a.toNat) (h' : a.toNat < 0xC000) :
    memRead a s = memRead (a + 0x4000) s := by
  have h2 : 0x8000 ≤ (a + 0x4000).toNat := by bv_omega
  rw [memRead_prg h, memRead_prg h2, prgByte_mirror hc h h']

/-- Below PRG the window is open bus, a free value taken. -/
theorem memRead_window_openBus {a : Addr} (h : 0x4020 ≤ a.toNat) (h' : a.toNat < 0x8000) (s : State) :
    memRead a s = (Config.openBus s.draws, s.nextDraw.setLatch (Config.openBus s.draws)) := by
  rw [memRead, route_cart h, ownerRead, mapRead, if_neg (by omega), openBus]

/-- Settles O16: the load by `loadContainer_eq`, the window by its reads and its writes, and the step by `step_effect`. -/
theorem configurationNeverChanges : Obligations.ConfigurationNeverChanges := by
  refine ⟨fun c => ?container, fun a v s h => ?window, fun s t h => ?step⟩
  case container =>
    exact ⟨loadContainer_of_not_whole, loadContainer_of_not_mapper0, loadContainer_of_not_supported, fun hw hm hs =>
      ⟨containerCartridge c, loadContainer_of_supported hw hm hs, containerCartridge_kept hs, rfl,
        fun k => containerMemory_read c, fun h0 => if_pos h0,
        fun h1 => ⟨_, if_neg (h1.trans_ne one_ne_zero), fun k => containerMemory_read c⟩, rfl⟩⟩
  case window =>
    refine ⟨memWrite_cart h v s, fun h8 => ?_, fun h8 hC hp => memRead_mirror hp h8 hC, fun h8 => memRead_window_openBus h h8 s⟩
    rw [memRead_prg h8, prgByte_eq]
    rfl
  case step =>
    obtain ⟨c, u, e, rfl⟩ := step_effect h
    obtain ⟨cart, cfg⟩ := afterCpu_config c u
    exact ⟨cart.trans e.cart, cfg.trans e.cfg⟩

end Sys2Proof.Machine

namespace Sys2Proof.Machine

/-! PROOFS. The family 20_memory.md: the mirrors of RAM (O51) and what one dot changes of the PPU (O60).

A dot moves the counters and then acts at the position it reaches (51_ppu_timing_rendering.md R351). Each field of the PPU is
written by few of the stages: one lemma per field says what it is after the dot, over the state before the dot and the position
reached. -/

/-! ### The mirrors of RAM (20_memory.md R74) -/

/-- A read after a write, both of RAM, by the cells of the two addresses. -/
theorem memRead_memWrite_ram {a b : Addr} (ha : a.toNat ≤ 0x1FFF) (hb : b.toNat ≤ 0x1FFF) (v : Byte) (s : State) :
    (memRead b (memWrite a v s)).1 = if a.toNat % 0x800 = b.toNat % 0x800 then v else (memRead b s).1 := by
  rw [memRead_ram hb, memRead_ram hb, memWrite_ram ha, State.setLatch_ram, State.setRam_ram, Store.read_write]
  exact if_congr eq_comm rfl rfl

/-- Settles O51: the value by `memRead_memWrite_ram`, the two frames by what a read and a write of RAM are. -/
theorem ramMirrors : Obligations.RamMirrors := by
  intro a b v s ha hb
  refine ⟨memRead_memWrite_ram ha hb v s, ?read, ?write⟩
  case read => rw [memRead_ram hb]; rfl
  case write => rw [memWrite_ram ha]; rfl

/-! ### What a dot leaves -/

/-- The OAM, the memories and the registers the CPU writes stay. -/
theorem ppuStep_registers (e : PpuEnv) (p : Ppu) :
    let q := ppuStep e p
    q.oam = p.oam ∧ q.ciram = p.ciram ∧ q.palette = p.palette ∧ q.ctrl = p.ctrl ∧ q.mask = p.mask ∧ q.t = p.t ∧ q.x = p.x ∧
    q.w = p.w ∧ q.readBuffer = p.readBuffer ∧ q.ioLatch = p.ioLatch := by
  intro q
  have h : q = _ := (ppuStep_effect e p).eq
  rw [h, advanceDot_eq]
  exact ⟨rfl, rfl, rfl, rfl, rfl, rfl, rfl, rfl, rfl, rfl⟩

theorem ppuStep_fbOut (e : PpuEnv) (p : Ppu) :
    (ppuStep e p).fbOut = if p.scanline = 261 ∧ p.dot = 340 then p.fb else p.fbOut := by
  rw [(ppuStep_effect e p).eq, advanceDot_eq]
  exact if_congr (by omega) rfl rfl

/-! ### The pixel -/

theorem renderPixel_advanceDot (e : PpuEnv) (s x : Nat) (p : Ppu) :
    (renderPixel e s x (advanceDot p)).fb = (renderPixel e s x p).fb ∧
    (renderPixel e s x (advanceDot p)).sprite0Hit = (renderPixel e s x p).sprite0Hit := by
  rw [advanceDot_eq]
  exact renderPixel_congr e s x p _ _ _ _

/-- No stage after the pixel's writes the frame. -/
theorem ppuStep_fb (e : PpuEnv) (p : Ppu) : (ppuStep e p).fb = (dotPixel e (advanceDot p)).fb := by
  rw [ppuStep, dotLatch_eq, dotSprites_eq, dotScroll_eq, dotClear_eq, dotVblank_eq]

/-- Away from the pre-render line no stage after the pixel's writes the sprite-0 hit. -/
theorem ppuStep_sprite0Hit (e : PpuEnv) (p : Ppu) (h : (ppuStep e p).scanline ≠ 261) :
    (ppuStep e p).sprite0Hit = (dotPixel e (advanceDot p)).sprite0Hit := by
  rw [(ppuStep_position e p).1] at h
  have line : (dotVblank (dotPixel e (advanceDot p))).scanline = (advanceDot p).scanline := by rw [dotVblank_eq, dotPixel_eq]
  have noClear : dotClear e (dotVblank (dotPixel e (advanceDot p))) = dotVblank (dotPixel e (advanceDot p)) :=
    if_neg fun c => h (line.symm.trans c.1)
  rw [ppuStep, dotLatch_eq, dotSprites_eq, dotScroll_eq, noClear, dotVblank_eq]

/-- A visible position is drawn. -/
theorem ppuStep_visible (e : PpuEnv) (p : Ppu) :
    let q := ppuStep e p
    q.scanline ≤ 239 ∧ 1 ≤ q.dot ∧ q.dot ≤ 256 →
      q.fb = (renderPixel e q.scanline (q.dot - 1) p).fb ∧ q.sprite0Hit = (renderPixel e q.scanline (q.dot - 1) p).sprite0Hit := by
  intro q visible
  obtain ⟨scanline, dot, -⟩ := ppuStep_position e p
  have line : q.scanline ≠ 261 := by omega
  obtain ⟨fb, hit⟩ := renderPixel_advanceDot e q.scanline (q.dot - 1) p
  have drawn : dotPixel e (advanceDot p) = renderPixel e q.scanline (q.dot - 1) (advanceDot p) := by
    rw [scanline, dot] at visible ⊢
    exact if_pos visible
  rw [ppuStep_fb, ppuStep_sprite0Hit e p line, drawn]
  exact ⟨fb, hit⟩

/-- Elsewhere the frame stays. -/
theorem ppuStep_not_visible (e : PpuEnv) (p : Ppu)
    (h : ¬((ppuStep e p).scanline ≤ 239 ∧ 1 ≤ (ppuStep e p).dot ∧ (ppuStep e p).dot ≤ 256)) : (ppuStep e p).fb = p.fb := by
  obtain ⟨scanline, dot, -⟩ := ppuStep_position e p
  rw [scanline, dot] at h
  rw [ppuStep_fb, dotPixel, if_neg h, advanceDot_eq]

/-! ### The scroll counters and the OAM cursor -/

/-- On a rendering line with rendering enabled the scroll stage counts v and clears the cursor at dot 257. -/
theorem dotScroll_of_rendering {p : Ppu} (h : p.renderingEnabled = true ∧ (p.scanline ≤ 239 ∨ p.scanline = 261)) :
    (dotScroll p).oamAddr = (if p.dot = 257 then 0 else p.oamAddr) ∧ (dotScroll p).v = scrollCounters p.scanline p.dot p.t p.v := by
  rw [dotScroll, if_pos h]
  exact ⟨rfl, rfl⟩

theorem dotScroll_of_not_rendering {p : Ppu} (h : ¬(p.renderingEnabled = true ∧ (p.scanline ≤ 239 ∨ p.scanline = 261))) :
    dotScroll p = p :=
  if_neg h

/-- The PPU that the scroll stage meets in a dot: at the new position, with what that stage reads as it was before the dot.
What it makes of v and of the cursor is what they are after the dot. -/
theorem ppuStep_scrollStage (e : PpuEnv) (p : Ppu) : ∃ r : Ppu,
    (ppuStep e p).v = (dotScroll r).v ∧ (ppuStep e p).oamAddr = (dotScroll r).oamAddr ∧
    r.scanline = (ppuStep e p).scanline ∧ r.dot = (ppuStep e p).dot ∧ r.renderingEnabled = p.renderingEnabled ∧
    r.v = p.v ∧ r.t = p.t ∧ r.oamAddr = p.oamAddr := by
  obtain ⟨scanline, dot, -⟩ := ppuStep_position e p
  refine ⟨dotClear e (dotVblank (dotPixel e (advanceDot p))), ?_, ?_, ?_⟩
  · rw [ppuStep, dotLatch_eq, dotSprites_eq]
  · rw [ppuStep, dotLatch_eq, dotSprites_eq]
  · rw [scanline, dot, (stages_beforeScroll e (advanceDot p)).eq]
    refine ⟨rfl, rfl, ?_⟩
    rw [advanceDot_eq]
    exact ⟨rfl, rfl, rfl, rfl⟩

theorem ppuStep_rendering (e : PpuEnv) (p : Ppu) :
    let q := ppuStep e p
    p.renderingEnabled = true ∧ (q.scanline ≤ 239 ∨ q.scanline = 261) →
      q.oamAddr = (if q.dot = 257 then 0 else p.oamAddr) ∧ q.v = scrollCounters q.scanline q.dot p.t p.v := by
  intro q rendering
  obtain ⟨r, v, oamAddr, scanline, dot, enabled, rv, rt, roamAddr⟩ := ppuStep_scrollStage e p
  rw [← enabled, ← scanline] at rendering
  obtain ⟨oamAddr', v'⟩ := dotScroll_of_rendering rendering
  rw [dot, roamAddr] at oamAddr'
  rw [scanline, dot, rt, rv] at v'
  exact ⟨oamAddr.trans oamAddr', v.trans v'⟩

theorem ppuStep_not_rendering (e : PpuEnv) (p : Ppu) :
    let q := ppuStep e p
    ¬(p.renderingEnabled = true ∧ (q.scanline ≤ 239 ∨ q.scanline = 261)) → q.v = p.v ∧ q.oamAddr = p.oamAddr := by
  intro q still
  obtain ⟨r, v, oamAddr, scanline, -, enabled, rv, -, roamAddr⟩ := ppuStep_scrollStage e p
  rw [← enabled, ← scanline] at still
  rw [dotScroll_of_not_rendering still] at v oamAddr
  exact ⟨v.trans rv, oamAddr.trans roamAddr⟩

/-! ### The sprite list and the line snapshot -/

theorem dotSprites_lineSprites (e : PpuEnv) (p : Ppu) :
    (dotSprites e p).lineSprites = if p.dot = 257 then (evaluateSprites e p.scanline p).lineSprites else p.lineSprites :=
  apply_ite Ppu.lineSprites _ _ _

/-- The PPU that sprite evaluation meets in a dot: what the stages before it have left of the PPU before the dot. -/
theorem ppuStep_spriteStage (e : PpuEnv) (p : Ppu) : ∃ r : Ppu,
    ppuStep e p = dotLatch (dotSprites e r) ∧ r.scanline = (ppuStep e p).scanline ∧ r.dot = (ppuStep e p).dot ∧
    r.ctrl = p.ctrl ∧ r.mask = p.mask ∧ r.oam = p.oam ∧ r.ciram = p.ciram ∧ r.palette = p.palette ∧ r.x = p.x ∧
    r.lineSprites = p.lineSprites ∧ r.lineScroll = p.lineScroll ∧ r.lineFineX = p.lineFineX := by
  obtain ⟨scanline, dot, -⟩ := ppuStep_position e p
  refine ⟨dotScroll (dotClear e (dotVblank (dotPixel e (advanceDot p)))), rfl, ?_⟩
  rw [scanline, dot, dotScroll_eq, (stages_beforeScroll e (advanceDot p)).eq]
  refine ⟨rfl, rfl, ?_⟩
  rw [advanceDot_eq]
  exact ⟨rfl, rfl, rfl, rfl, rfl, rfl, rfl, rfl, rfl⟩

theorem ppuStep_lineSprites (e : PpuEnv) (p : Ppu) :
    let q := ppuStep e p
    q.lineSprites = if q.dot = 257 then (evaluateSprites e q.scanline p).lineSprites else p.lineSprites := by
  intro q
  obtain ⟨r, (step : q = _), scanline, dot, ctrl, mask, oam, ciram, palette, -, lineSprites, -⟩ := ppuStep_spriteStage e p
  have list : q.lineSprites = (dotSprites e r).lineSprites := by rw [step, dotLatch_eq]
  rw [list, dotSprites_lineSprites, scanline, dot, lineSprites, evaluateSprites_congr e _ p r ⟨ctrl, mask, oam⟩ ciram palette]

theorem ppuStep_snapshot (e : PpuEnv) (p : Ppu) :
    let q := ppuStep e p
    let snapshot := q.dot = 320 ∧ (q.scanline ≤ 238 ∨ q.scanline = 261)
    (snapshot → q.lineScroll = q.v ∧ q.lineFineX = p.x) ∧
    (¬snapshot → q.lineScroll = p.lineScroll ∧ q.lineFineX = p.lineFineX) := by
  intro q snapshot
  obtain ⟨r, (step : q = _), scanline, dot, -, -, -, -, -, x, -, lineScroll, lineFineX⟩ := ppuStep_spriteStage e p
  have scanline' : (dotSprites e r).scanline = q.scanline := by rw [dotSprites_eq]; exact scanline
  have dot' : (dotSprites e r).dot = q.dot := by rw [dotSprites_eq]; exact dot
  refine ⟨fun h => ?taken, fun h => ?kept⟩
  case taken =>
    have latched : q = latchLineScroll (dotSprites e r) := step.trans (if_pos (by rw [scanline', dot']; exact h))
    have x' : (dotSprites e r).x = p.x := by rw [dotSprites_eq]; exact x
    rw [latched]
    exact ⟨rfl, x'⟩
  case kept =>
    have same : q = dotSprites e r := step.trans (if_neg (by rw [scanline', dot']; exact h))
    rw [same, dotSprites_eq]
    exact ⟨lineScroll, lineFineX⟩

/-- Settles O60: one lemma per field, and on a rendering line `scrollCounters_fields` for the fields of v. -/
theorem whatADotChanges : Obligations.WhatADotChanges := by
  intro e p q pixel visible rendering wrap snapshot across fineY coarseY half
  obtain ⟨oam, ciram, palette, ctrl, mask, t, x, w, readBuffer, ioLatch⟩ := ppuStep_registers e p
  obtain ⟨taken, kept⟩ := ppuStep_snapshot e p
  refine ⟨oam, ciram, palette, ctrl, mask, t, x, w, readBuffer, ioLatch, ppuStep_visible e p, ppuStep_not_visible e p,
    ppuStep_not_rendering e p, fun h => ?rendering, ppuStep_lineSprites e p, taken, kept, ppuStep_fbOut e p⟩
  case rendering =>
    obtain ⟨oamAddr, v⟩ := ppuStep_rendering e p h
    have fields := scrollCounters_fields q.scanline q.dot p.t p.v
    rw [← v] at fields
    exact ⟨oamAddr, fields⟩

end Sys2Proof.Machine

namespace Sys2Proof

/-! PROOFS. The family 30_encoding.md: decoding and encoding undo each other (O1, O2), decoding is total (O3), the worked encodings
(O4), and a step runs what the bytes at PC decode to (O5).

Two tables carry it. From the bytes: the instruction that `decodeBytes` looks up has the opcode looked up and the operand bytes that
were read (`opcode?_decodeBytes`, `operandBytes_decodeBytes`). From the instruction: its opcode and operand bytes decode to it
(`decode_of_opcode?`). -/

/-! ### What has an opcode (R110) -/

theorem encode_eq_cons_iff {i : Instr} {op : Byte} {l : List Byte} :
    encode i = op :: l ↔ i.opcode? = some op ∧ i.operandBytes = l := by
  rw [encode]
  cases i.opcode? <;> simp

theorem encode_of_opcode? {i : Instr} {op : Byte} (h : i.opcode? = some op) : encode i = op :: i.operandBytes :=
  encode_eq_cons_iff.2 ⟨h, rfl⟩

/-- An instruction has an opcode for just the operand forms its rule lists. -/
theorem Instr.wellFormed_eq_isSome (i : Instr) : i.wellFormed = i.opcode?.isSome := by
  cases i
  case lda o | ldx o | ldy o | adc o | sbc o | cmp o | cpx o | cpy o | and o | ora o | eor o =>
    cases o with
    | imm nn => rfl
    | mem m => cases m <;> rfl
  case sta m | stx m | sty m | bit m | inc m | dec m => cases m <;> rfl
  case asl o | lsr o | rol o | ror o =>
    cases o with
    | acc => rfl
    | mem m => cases m <;> rfl
  case illegal op =>
    rw [Instr.wellFormed, Instr.opcode?]
    cases illegalOpcodes.contains op.toNat <;> rfl
  all_goals rfl

theorem Instr.wellFormed_iff {i : Instr} : i.wellFormed = true ↔ ∃ op, i.opcode? = some op := by
  rw [i.wellFormed_eq_isSome, Option.isSome_iff_exists]

theorem illegal_of_opcode? {x op : Byte} (h : (Instr.illegal x).opcode? = some op) :
    x = op ∧ illegalOpcodes.contains op.toNat = true := by
  rw [Instr.opcode?, Option.ite_none_right_eq_some] at h
  obtain ⟨listed, ⟨⟩⟩ := h
  exact ⟨rfl, listed⟩

theorem encode_illegal {op : Byte} (h : illegalOpcodes.contains op.toNat = true) : encode (.illegal op) = [op] :=
  encode_of_opcode? (if_pos h)

/-! ### The decoder by the length of R121 -/

theorem EaMode.operandLength_le (m : EaMode) : m.operandLength ≤ 2 := by cases m <;> simp [EaMode.operandLength]

theorem ReadOperand.operandLength_le (o : ReadOperand) : o.operandLength ≤ 2 := by
  cases o with
  | imm nn => exact Nat.le_succ 1
  | mem m => exact m.operandLength_le

theorem ShiftOperand.operandLength_le (o : ShiftOperand) : o.operandLength ≤ 2 := by
  cases o with
  | acc => exact Nat.zero_le 2
  | mem m => exact m.operandLength_le

theorem Instr.length_bounds (i : Instr) : 1 ≤ i.length ∧ i.length ≤ 3 := by
  cases i
  case lda o | ldx o | ldy o | adc o | sbc o | cmp o | cpx o | cpy o | and o | ora o | eor o =>
    exact ⟨Nat.le_add_right 1 _, Nat.add_le_add_left o.operandLength_le 1⟩
  case sta m | stx m | sty m | bit m | inc m | dec m =>
    exact ⟨Nat.le_add_right 1 _, Nat.add_le_add_left m.operandLength_le 1⟩
  case asl o | lsr o | rol o | ror o => exact ⟨Nat.le_add_right 1 _, Nat.add_le_add_left o.operandLength_le 1⟩
  all_goals simp [Instr.length]

theorem opLength_cases (op : Byte) : opLength op = 1 ∨ opLength op = 2 ∨ opLength op = 3 := by
  have := (decodeBytes op 0 0).length_bounds
  rw [opLength]
  omega

theorem decode_of_length_one {op : Byte} (h : opLength op = 1) (rest : List Byte) :
    decode (op :: rest) = .ok (decodeBytes op 0 0, rest) := by
  simp only [decode, h]

theorem decode_of_length_two {op : Byte} (h : opLength op = 2) (b1 : Byte) (rest : List Byte) :
    decode (op :: b1 :: rest) = .ok (decodeBytes op b1 0, rest) := by
  simp only [decode, h]

theorem decode_of_length_three {op : Byte} (h : opLength op = 3) (b1 b2 : Byte) (rest : List Byte) :
    decode (op :: b1 :: b2 :: rest) = .ok (decodeBytes op b1 b2, rest) := by
  simp only [decode, h]

/-- All that a list of bytes which decodes can be. -/
theorem decode_cases {bytes rest : List Byte} {i : Instr} (h : decode bytes = .ok (i, rest)) : ∃ op,
    (opLength op = 1 ∧ bytes = op :: rest ∧ i = decodeBytes op 0 0) ∨
    (∃ b1, opLength op = 2 ∧ bytes = op :: b1 :: rest ∧ i = decodeBytes op b1 0) ∨
    (∃ b1 b2, opLength op = 3 ∧ bytes = op :: b1 :: b2 :: rest ∧ i = decodeBytes op b1 b2) := by
  revert h
  fun_cases decode bytes
  case case2 op rest' one =>
    rintro ⟨⟩
    exact ⟨op, .inl ⟨one, rfl, rfl⟩⟩
  case case3 op b1 rest' two =>
    rintro ⟨⟩
    exact ⟨op, .inr (.inl ⟨b1, two, rfl, rfl⟩)⟩
  case case4 op b1 b2 rest' three =>
    rintro ⟨⟩
    exact ⟨op, .inr (.inr ⟨b1, b2, three, rfl, rfl⟩)⟩
  all_goals exact nofun

/-! ### From the instruction to its bytes and back -/

@[simp] theorem wordBytes_addrOf (hi lo : Byte) : wordBytes (addrOf hi lo) = [lo, hi] := by
  rw [wordBytes, Machine.loByte_addrOf, Machine.hiByte_addrOf]

theorem decodeBytes_illegal {op : Byte} (h : illegalOpcodes.contains op.toNat = true) : decodeBytes op 0 0 = .illegal op := by
  have table : ∀ n ∈ illegalOpcodes, decodeBytes (BitVec.ofNat 8 n) 0 0 = .illegal (BitVec.ofNat 8 n) := by decide +kernel
  simpa using table op.toNat (List.contains_iff_mem.1 h)

theorem opLength_illegal {op : Byte} (h : illegalOpcodes.contains op.toNat = true) : opLength op = 1 := by
  rw [opLength, decodeBytes_illegal h, Instr.length]

/-- Row by row of `Instr.opcode?`: a row with no 16-bit operand computes, and the others join the two bytes of theirs again. -/
theorem decode_of_opcode? {i : Instr} {op : Byte} (h : i.opcode? = some op) (rest : List Byte) :
    decode (op :: (i.operandBytes ++ rest)) = .ok (i, rest) := by
  revert h
  fun_cases Instr.opcode? i
  case case173 op' listed =>
    rintro ⟨⟩
    rw [Instr.operandBytes, List.nil_append, decode_of_length_one (opLength_illegal listed), decodeBytes_illegal listed]
  all_goals rintro ⟨⟩
  all_goals try rfl
  all_goals
    rename_i word
    conv_rhs => rw [← Machine.addrOf_hiByte_loByte word]
    rfl

/-! ### From the bytes to the instruction and back (R115) -/

/-- Each of the 256 entries is an instruction of the opcode it stands at, the 105 illegal ones among them. -/
theorem opcode?_decodeBytes (op b1 b2 : Byte) : (decodeBytes op b1 b2).opcode? = some op := by
  obtain ⟨n, hn⟩ := op
  interval_cases n
  all_goals rfl

/-- The operand bytes are those the length of the opcode says are read, and no others. -/
theorem operandBytes_decodeBytes (op b1 b2 : Byte) :
    (decodeBytes op b1 b2).operandBytes =
      if opLength op = 1 then [] else if opLength op = 2 then [b1] else wordBytes (addrOf b2 b1) := by
  have opcode := opcode?_decodeBytes op b1 b2
  revert opcode
  fun_cases decodeBytes op b1 b2
  case case152 =>
    intro opcode
    rw [Instr.operandBytes, if_pos (opLength_illegal (illegal_of_opcode? opcode).2)]
  all_goals exact fun _ => rfl

theorem decode_ok {bytes rest : List Byte} {i : Instr} (h : decode bytes = .ok (i, rest)) :
    ∃ op, i.opcode? = some op ∧ bytes = op :: (i.operandBytes ++ rest) := by
  obtain ⟨op, ⟨one, rfl, rfl⟩ | ⟨b1, two, rfl, rfl⟩ | ⟨b1, b2, three, rfl, rfl⟩⟩ := decode_cases h
  · exact ⟨op, opcode?_decodeBytes _ _ _, by simp [operandBytes_decodeBytes, one]⟩
  · exact ⟨op, opcode?_decodeBytes _ _ _, by simp [operandBytes_decodeBytes, two]⟩
  · exact ⟨op, opcode?_decodeBytes _ _ _, by simp [operandBytes_decodeBytes, three]⟩

theorem decode_total (op b1 b2 : Byte) : ∃ i rest, decode [op, b1, b2] = .ok (i, rest) := by
  rcases opLength_cases op with one | two | three
  · exact ⟨_, _, decode_of_length_one one _⟩
  · exact ⟨_, _, decode_of_length_two two _ _⟩
  · exact ⟨_, _, decode_of_length_three three _ _ _⟩

/-! ### The statements about the encoding -/

/-- Settles O1: a well-formed instruction has an opcode, and `decode_of_opcode?`. -/
theorem decodeEncodeIsIdentity : Obligations.DecodeEncodeIsIdentity := by
  intro i rest wellFormed
  obtain ⟨op, opcode⟩ := Instr.wellFormed_iff.1 wellFormed
  rw [encode_of_opcode? opcode]
  exact decode_of_opcode? opcode rest

/-- Settles O2 by `decode_ok`: what is decoded has an opcode, and its opcode and operand bytes are those that were read. -/
theorem encodeDecodeGivesTheBytes : Obligations.EncodeDecodeGivesTheBytes := by
  intro bytes rest i h
  obtain ⟨op, opcode, rfl⟩ := decode_ok h
  refine ⟨Instr.wellFormed_iff.2 ⟨op, opcode⟩, ?_⟩
  rw [encode_of_opcode? opcode, List.cons_append]

/-- Settles O3: a listed byte is the encoding of its illegal instruction (O1), and an illegal instruction with an opcode is
listed. -/
theorem everyOpcodeByteDecodes : Obligations.EveryOpcodeByteDecodes := by
  refine ⟨rfl, fun op b1 b2 => ⟨decode_total op b1 b2, fun listed => ?illegal, fun unlisted x entry => ?documented⟩⟩
  case illegal =>
    have decoded := decodeEncodeIsIdentity (.illegal op) [b1, b2] listed
    rwa [encode_illegal listed] at decoded
  case documented =>
    have opcode := opcode?_decodeBytes op b1 b2
    rw [entry] at opcode
    exact Bool.false_ne_true (unlisted.symm.trans (illegal_of_opcode? opcode).2)

/-- Settles O4: each worked word is the encoding of the instruction named, so O1 decodes it. -/
theorem sampleWordsDecode : Obligations.SampleWordsDecode :=
  ⟨decodeEncodeIsIdentity .inx [] rfl,
   decodeEncodeIsIdentity (.asl .acc) [] rfl,
   decodeEncodeIsIdentity (.lda (.imm 0x42)) [] rfl,
   decodeEncodeIsIdentity (.lda (.mem (.zp 0x10))) [] rfl,
   decodeEncodeIsIdentity (.lda (.mem (.zpx 0x10))) [] rfl,
   decodeEncodeIsIdentity (.ldx (.mem (.zpy 0x10))) [] rfl,
   decodeEncodeIsIdentity (.sta (.abs 0x2007)) [] rfl,
   decodeEncodeIsIdentity (.lda (.mem (.abx 0x0300))) [] rfl,
   decodeEncodeIsIdentity (.lda (.mem (.aby 0x0300))) [] rfl,
   decodeEncodeIsIdentity (.jmpInd 0xFFFC) [] rfl,
   decodeEncodeIsIdentity (.lda (.mem (.izx 0x20))) [] rfl,
   decodeEncodeIsIdentity (.lda (.mem (.izy 0x20))) [] rfl,
   decodeEncodeIsIdentity (.bne 0xFE) [] rfl⟩

end Sys2Proof

namespace Sys2Proof.Machine

/-! ### The fetch (R114) -/

theorem fetched_fetched (m n : Nat) (b c : Byte) (s : State) : fetched m c (fetched n b s) = fetched (n + m) c s := by
  simp only [fetched, BitVec.ofNat_add, add_assoc]

theorem fetchByte_of_plainByte {s : State} {b : Byte} (h : plainByte s s.cpu.pc = some b) :
    fetchByte s = (b, fetched 1 b s) := by
  rw [fetchByte, plainByte_some h]
  rfl

/-- The fetch of the byte after the `n` fetched already. -/
theorem fetchByte_fetched {s : State} {n : Nat} {b c : Byte} (h : plainByte s (s.cpu.pc + BitVec.ofNat 16 n) = some c) :
    fetchByte (fetched n b s) = (c, fetched (n + 1) c s) := by
  rw [fetchByte_of_plainByte (s := fetched n b s) h, fetched_fetched]

theorem fetchInstr_of_plainBytes {s : State} {bytes : List Byte} {i : Instr} {last : Byte}
    (decoded : decode bytes = .ok (i, [])) (ends : bytes.getLast? = some last)
    (plain : ∀ k b, bytes[k]? = some b → plainByte s (s.cpu.pc + BitVec.ofNat 16 k) = some b) :
    fetchInstr s = (i, fetched bytes.length last s) := by
  have first {op : Byte} (h : bytes[0]? = some op) : fetchByte s = (op, fetched 1 op s) :=
    fetchByte_of_plainByte (by simpa using plain 0 op h)
  have next {n : Nat} {b c : Byte} (h : bytes[n]? = some c) : fetchByte (fetched n b s) = (c, fetched (n + 1) c s) :=
    fetchByte_fetched (plain n c h)
  obtain ⟨op, ⟨one, rfl, rfl⟩ | ⟨b1, two, rfl, rfl⟩ | ⟨b1, b2, three, rfl, rfl⟩⟩ := decode_cases decoded
  · cases ends
    simp only [fetchInstr, first rfl, one]
    rfl
  · cases ends
    simp only [fetchInstr, first rfl, two, next (n := 1) rfl]
    rfl
  · cases ends
    simp only [fetchInstr, first rfl, three, next (n := 1) rfl, next (n := 2) rfl]
    rfl

/-! ### The statement about the step -/

theorem step_of_runsInstruction {s t : State} (h : RunsInstruction s)
    (ran : exec (fetchInstr s).1 (fetchInstr s).2 = .next t) :
    step s = .next (afterCpu ((settleStall t).cpu.cycles - s.cpu.cycles) (settleStall t)) := by
  obtain ⟨unfaulted, kind⟩ := h
  simp only [step, iterate, unfaulted, cpuStep, kind, ran, Bool.false_eq_true, if_false]

/-- Settles O5: the fetch by `fetchInstr_of_plainBytes`, and the instruction answers a next state (`exec_effect`). -/
theorem stepRunsTheDecodedInstruction : Obligations.StepRunsTheDecodedInstruction := by
  intro s bytes i last runs decoded ends plain
  have fetch := fetchInstr_of_plainBytes decoded ends plain
  obtain ⟨t, ran, -⟩ := exec_effect i (fetched bytes.length last s)
  rw [step_of_runsInstruction runs (by rw [fetch]; exact ran), ran]
  rfl

end Sys2Proof.Machine

namespace Sys2Proof.Machine

/-! PROOFS. The family 40_addressing_modes.md: effective addresses, page crossings, accesses and cycles (O50). -/

/-- A pointer in page 0 is two bus reads at zero-page addresses, the second with wrap (00_scope.md R13). -/
theorem read16InPage_zero_eq_reads (z : Byte) (s : State) :
    read16InPage 0 z s =
      let lo := memRead (zeroPage z) s
      let hi := memRead (zeroPage (z + 1)) lo.2
      (addrOf hi.1 lo.1, hi.2) := by
  simp only [read16InPage, addrOf_zero, zeroPage]

/-- The sum wraps at 65536, and a page is crossed when it changes the high byte (R146, R147, R149). -/
theorem indexed_eq (base : Addr) (index : Byte) :
    indexed base index =
      { ea := base + zeroPage index, crossed := decide (hiByte base ≠ hiByte (base + zeroPage index)) } := by
  simp only [indexed, bne, beq_eq_decide, decide_not, ne_eq]

/-- One bus read at the effective address, after the base count and the penalty of a crossed page (R155, R156). -/
theorem readMem_eq (m : EaMode) (s : State) :
    readMem m s = memRead (resolve m s).1.ea
      ((resolve m s).2.spend (readCycles m + if (resolve m s).1.crossed then 1 else 0)) := by
  simp only [readMem, Bool.toNat, cond_eq_ite]

/-- Settles O50: the direct modes, the counts and the immediate are the definitions read off; the indexed modes are `indexed_eq`,
the pointers `read16InPage_zero_eq_reads`, and the read of an operand `readMem_eq`. -/
theorem addressingModes : Obligations.AddressingModes := by
  refine ⟨fun zz base s => ⟨rfl, rfl, rfl, rfl, ?abx, ?aby, ?izx, ?izy, ?counts⟩, fun m s => ?operand⟩
  case abx => exact congrArg (·, s) (indexed_eq base s.cpu.x)
  case aby => exact congrArg (·, s) (indexed_eq base s.cpu.y)
  case izx => rw [resolve, read16InPage_zero_eq_reads]; rfl
  case izy => rw [resolve, read16InPage_zero_eq_reads, indexed_eq]; rfl
  case counts => simp [readCycles, storeCycles, modifyCycles, readOperand, State.spend, State.setCpu]
  case operand => exact ⟨readMem_eq m s, readMem_eq m s⟩

end Sys2Proof.Machine

namespace Sys2Proof.Machine

/-! PROOFS. The family 41_load_store_transfer.md: loads (O20), stores (O21), transfers (O22), and what the reading instructions
(O45), the stores (O46) and the instructions that touch registers alone (O48) leave unchanged.

Each frame is put together from what the shared operation under it leaves: a read is `readOperand_effect`, a store `memWrite_effect`
with the laws of a bus write by its address, and the rest of an instruction is a change of the CPU, `State.setCpu`. -/

/-! ### The two frames that the statements name -/

theorem SameControl.trans {s t u : State} (h : SameControl s t) (k : SameControl t u) : SameControl s u where
  nmi := k.nmi.trans h.nmi
  irq := k.irq.trans h.irq
  reset := k.reset.trans h.reset
  anomalies := k.anomalies.trans h.anomalies
  fault := k.fault.trans h.fault
  cfg := k.cfg.trans h.cfg
  frames := k.frames.trans h.frames
  presented := k.presented.trans h.presented
  logged := k.logged.trans h.logged

/-- The CPU `d` is `c` but for the registers, the flags other than Break and Unused, and the cycle counter. -/
structure RegistersOnly (c d : Cpu) : Prop where
  eq : d =
    { c with
      a := d.a, x := d.x, y := d.y, sp := d.sp, pc := d.pc, p := { d.p with b := c.p.b, u := c.p.u }, cycles := d.cycles }

/-- Registers, flags and cycles are no part of the control state. -/
theorem RegistersOnly.sameControl {s : State} {c : Cpu} (h : RegistersOnly s.cpu c) : SameControl s (s.setCpu c) where
  nmi := by rw [State.setCpu_cpu, h.eq]
  irq := by rw [State.setCpu_cpu, h.eq]
  reset := by rw [State.setCpu_cpu, h.eq]
  anomalies := by rw [State.setCpu_cpu, h.eq]
  fault := by rw [State.setCpu_cpu, h.eq]
  cfg := rfl
  frames := rfl
  presented := rfl
  logged := rfl

theorem spend_sameControl (n : Nat) (s : State) : SameControl s (s.spend n) := RegistersOnly.sameControl ⟨rfl⟩

theorem WriteEffect.sameControl {s t : State} (e : WriteEffect s t) : SameControl s t where
  nmi := by rw [e.cpu]
  irq := by rw [e.cpu]
  reset := by rw [e.cpu]
  anomalies := by rw [e.cpu]
  fault := by rw [e.cpu]
  cfg := e.cfg
  frames := e.frames
  presented := by rw [e.out]
  logged := by rw [e.out]

theorem ReadEffect.sameMemories {s t : State} (e : ReadEffect s t) : SameMemories s t where
  ram k := by rw [e.ram]
  chrRam k := by rw [e.chrRam]
  oam k := by rw [e.ppu]
  ciram k := by rw [e.ppu]
  palette k := by rw [e.ppu]
  cart := e.cart

/-- The CPU is no memory. -/
theorem SameMemories.setCpu {s t : State} (h : SameMemories s t) (c d : Cpu) : SameMemories (s.setCpu c) (t.setCpu d) :=
  ⟨h.ram, h.chrRam, h.oam, h.ciram, h.palette, h.cart⟩

/-! ### Reading instructions -/

theorem readOperand_cpu (o : ReadOperand) (s : State) :
    (readOperand o s).2.cpu = { s.cpu with cycles := s.cpu.cycles + operandCycles o s } :=
  (readOperand_effect o s).cpu

theorem readOperand_sameControl (o : ReadOperand) (s : State) : SameControl s (readOperand o s).2 :=
  (spend_sameControl _ s).trans (readOperand_effect o s).toWrite.sameControl

/-- The twelve instructions that read the operand `o` and write no memory. -/
abbrev ReadsOperand (o : ReadOperand) (i : Instr) : Prop :=
  i ∈ [.lda o, .ldx o, .ldy o, .adc o, .sbc o, .cmp o, .cpx o, .cpy o, .and o, .ora o, .eor o] ∨ ∃ m, o = .mem m ∧ i = .bit m

/-- What a reading instruction `i` makes of the CPU `c` that its operand read has left. By default a part stays, so a proof of this
names the parts that its instruction writes. -/
structure ReadsInto (o : ReadOperand) (i : Instr) (c d : Cpu) : Prop where
  eq       : d = { c with a := d.a, x := d.x, y := d.y, p := { c.p with c := d.p.c, z := d.p.z, v := d.p.v, n := d.p.n } } := by
    exact rfl
  a        : i ∉ [.lda o, .adc o, .sbc o, .and o, .ora o, .eor o] → d.a = c.a := by exact fun _ => rfl
  x        : i ≠ .ldx o → d.x = c.x := by exact fun _ => rfl
  y        : i ≠ .ldy o → d.y = c.y := by exact fun _ => rfl
  carry    : i ∉ [.adc o, .sbc o, .cmp o, .cpx o, .cpy o] → d.p.c = c.p.c := by exact fun _ => rfl
  overflow : i ∉ [.adc o, .sbc o] → (∀ m, i ≠ .bit m) → d.p.v = c.p.v := by exact fun _ _ => rfl

theorem ReadsInto.registersOnly {o : ReadOperand} {i : Instr} {c d : Cpu} (h : ReadsInto o i c d) : RegistersOnly c d :=
  ⟨by rw [h.eq]⟩

/-- A reading instruction is its operand read and then a change of the CPU. -/
theorem exec_reads {o : ReadOperand} {i : Instr} {s t : State} (hi : ReadsOperand o i) (h : exec i s = .next t) :
    ∃ d, t = (readOperand o s).2.setCpu d ∧ ReadsInto o i (readOperand o s).2.cpu d := by
  cases i
  case lda o' | and o' | ora o' | eor o' =>
    obtain rfl : o' = o := by simpa [ReadsOperand] using hi
    cases h
    exact ⟨_, rfl, { a := by simp }⟩
  case ldx o' =>
    obtain rfl : o' = o := by simpa [ReadsOperand] using hi
    cases h
    exact ⟨_, rfl, { x := by simp }⟩
  case ldy o' =>
    obtain rfl : o' = o := by simpa [ReadsOperand] using hi
    cases h
    exact ⟨_, rfl, { y := by simp }⟩
  case adc o' | sbc o' =>
    obtain rfl : o' = o := by simpa [ReadsOperand] using hi
    cases h
    exact ⟨_, rfl, { a := by simp, carry := by simp, overflow := by simp }⟩
  case cmp o' | cpx o' | cpy o' =>
    obtain rfl : o' = o := by simpa [ReadsOperand] using hi
    cases h
    exact ⟨_, rfl, { carry := by simp }⟩
  case bit m =>
    obtain rfl : o = .mem m := by simpa [ReadsOperand] using hi
    cases h
    exact ⟨_, rfl, { overflow := fun _ noBit => absurd rfl (noBit m) }⟩
  all_goals simp [ReadsOperand] at hi

/-- Settles O45: the memories, the PPU and the ports by what the operand read leaves, the CPU by `exec_reads`. -/
theorem readInstructionsFrame : Obligations.ReadInstructionsFrame := by
  intro o i s t hi h
  obtain ⟨d, rfl, into⟩ := exec_reads hi h
  have read := readOperand_effect o s
  have control := (readOperand_sameControl o s).trans into.registersOnly.sameControl
  obtain ⟨eq, a, x, y, carry, overflow⟩ := into
  rw [readOperand_cpu] at eq a x y carry overflow
  exact ⟨read.sameMemories.setCpu s.cpu d, control, read.out, by rw [State.setCpu_cpu, eq], by rw [State.setCpu_cpu, eq],
    by rw [State.setCpu_cpu, eq], a, x, y, by rw [State.setCpu_cpu, eq], by rw [State.setCpu_cpu, eq],
    by rw [State.setCpu_cpu, eq], by rw [State.setCpu_cpu, eq], carry, overflow, read.ppu, read.io, readOperand_plain o s⟩

/-- Settles O20: the encodings are rows of the decoder's table, and a load is its operand read and two writes of the CPU. -/
theorem loadsSetRegisterAndZN : Obligations.LoadsSetRegisterAndZN :=
  ⟨fun _ _ => ⟨rfl, rfl, rfl, rfl, rfl, rfl, rfl, rfl, rfl, rfl, rfl, rfl, rfl, rfl, rfl, rfl, rfl, rfl⟩,
    fun _ _ => ⟨rfl, rfl, rfl⟩⟩

/-! ### Stores -/

/-- The three stores, each with the register it writes. -/
theorem exec_store {m : EaMode} {i : Instr} {v : Byte} {s : State}
    (h : (i, v) ∈ [(.sta m, s.cpu.a), (.stx m, s.cpu.x), (.sty m, s.cpu.y)]) : exec i s = .next (storeMem m v s) := by
  simp only [List.mem_cons, Prod.mk.injEq, List.not_mem_nil, or_false] at h
  obtain ⟨rfl, rfl⟩ | ⟨rfl, rfl⟩ | ⟨rfl, rfl⟩ := h
  all_goals rfl

/-- Settles O21: the encodings are rows of the decoder's table, and what the three execute is `storeMem` by `exec_store`. -/
theorem storesWriteTheRegister : Obligations.StoresWriteTheRegister :=
  ⟨fun _ _ => ⟨rfl, rfl, rfl, rfl, rfl, rfl, rfl, rfl, rfl, rfl, rfl, rfl, rfl⟩,
    fun _ _ => ⟨exec_store (by simp), exec_store (by simp), exec_store (by simp)⟩⟩

/-- A store meets the bus with the cycles counted and the bus latch as the pointer reads have left it. -/
theorem resolve_spend (m : EaMode) (n : Nat) (s : State) : ∃ latch, (resolve m s).2.spend n = (s.spend n).setLatch latch := by
  rw [resolve_state]
  exact ⟨_, rfl⟩

theorem memWrite_ram_read_same {a : Addr} (h : a.toNat ≤ 0x1FFF) (v : Byte) (s : State) :
    (memWrite a v s).ram.read (a.toNat % 0x800) = v := by
  rw [memWrite_ram_eq, if_pos h, Store.read_write_same]

theorem memWrite_ram_read_other {a : Addr} {k : Nat} (h : ¬(a.toNat ≤ 0x1FFF ∧ k = a.toNat % 0x800)) (v : Byte) (s : State) :
    (memWrite a v s).ram.read k = s.ram.read k := by
  rw [memWrite_ram_eq]
  split
  · next ram => exact Store.read_write_other _ _ fun same => h ⟨ram, same⟩
  · rfl

/-- Only a write at 0x4014 touches the CPU. -/
theorem memWrite_cpu_of_ne {a : Addr} (h : a ≠ 0x4014) (v : Byte) (s : State) : (memWrite a v s).cpu = s.cpu :=
  (memWrite_cpu a v s).resolve_right fun dma => h dma.1

/-- Settles O46: the laws of the one bus write, from the state that `resolve_spend` gives. -/
theorem storeInstructionsFrame : Obligations.StoreInstructionsFrame := by
  intro m i v s t hi h
  obtain rfl : storeMem m v s = t := Host.Outcome.next.inj ((exec_store hi).symm.trans h)
  obtain ⟨latch, before⟩ := resolve_spend m (storeCycles m) s
  rw [storeMem_eq, before]
  dsimp only
  generalize (resolve m s).1.ea = ea
  have control : SameControl s ((s.spend (storeCycles m)).setLatch latch) :=
    (spend_sameControl _ s).trans (setLatch_effect latch _).toWrite.sameControl
  have write := memWrite_effect ea v ((s.spend (storeCycles m)).setLatch latch)
  obtain ⟨addressSpace, oam⟩ := memWrite_memories ea v ((s.spend (storeCycles m)).setLatch latch)
  refine ⟨control.trans write.sameControl, write.cart, by rw [write.cpu]; rfl, fun ram => memWrite_ram_read_same ram v _,
    fun a _ other => memWrite_ram_read_other other v _, fun notData => ?addressSpace,
    fun notOamData notDma k => congrArg (·.read k) (oam notOamData notDma),
    fun notDma => by rw [memWrite_cpu_of_ne notDma]; rfl, fun plain => ?plain⟩
  case addressSpace =>
    obtain ⟨chrRam, ciram, palette⟩ := addressSpace notData
    exact ⟨fun k => congrArg (·.read k) chrRam, fun k => congrArg (·.read k) ciram, fun k => congrArg (·.read k) palette⟩
  case plain =>
    rw [memWrite_plain plain]
    exact ⟨rfl, rfl, rfl, rfl⟩

/-! ### Instructions that touch registers alone -/

/-- Settles O22: the encodings are rows of the decoder's table, and a transfer is its cycles and two writes of the CPU. -/
theorem transfersCopyTheRegister : Obligations.TransfersCopyTheRegister :=
  ⟨fun _ _ => ⟨rfl, rfl, rfl, rfl, rfl, rfl⟩, fun _ => ⟨rfl, rfl, rfl, rfl, rfl, rfl⟩⟩

/-- A branch, taken or not, changes PC and the cycle counter. -/
theorem branch_setCpu (cond : Bool) (oo : Byte) (s : State) :
    ∃ pc n, branch cond oo s = s.setCpu { s.cpu with pc := pc, cycles := n } := by
  obtain ⟨n, -, -, h⟩ := branch_effect cond oo s
  exact ⟨_, _, h⟩

/-- The branches by `oo` and JMP absolute. -/
abbrev branchesAndJmp (oo : Byte) (target : Addr) : List Instr :=
  [.bcc oo, .bcs oo, .beq oo, .bmi oo, .bne oo, .bpl oo, .bvc oo, .bvs oo, .jmp target]

theorem exec_branchesAndJmp {oo : Byte} {target : Addr} {i : Instr} {s t : State} (hi : i ∈ branchesAndJmp oo target)
    (h : exec i s = .next t) : ∃ pc n, t = s.setCpu { s.cpu with pc := pc, cycles := n } := by
  cases i
  case bcc oo' | bcs oo' | beq oo' | bmi oo' | bne oo' | bpl oo' | bvc oo' | bvs oo' =>
    cases h
    exact branch_setCpu _ oo' s
  case jmp a' =>
    cases h
    exact ⟨_, _, rfl⟩
  all_goals simp at hi

/-- The transfers that set Z and N. -/
abbrev flaggedTransfers : List Instr := [.tax, .tay, .txa, .tya, .tsx]

/-- The increments and decrements of an index register. -/
abbrev indexCounts : List Instr := [.inx, .iny, .dex, .dey]

/-- The shifts and rotates of the accumulator. -/
abbrev accumulatorShifts : List Instr := [.asl .acc, .lsr .acc, .rol .acc, .ror .acc]

/-- The flag instructions. -/
abbrev flagWrites : List Instr := [.clc, .cld, .cli, .clv, .sec, .sed, .sei]

/-- What an instruction that touches registers alone makes of the CPU `c`: each part stays but for the instructions that write it.
By default a part stays, so a proof of this names the parts that its instruction writes. -/
structure RegisterFrame (oo : Byte) (target : Addr) (i : Instr) (c d : Cpu) : Prop where
  only     : RegistersOnly c d := by exact ⟨rfl⟩
  a        : i ∉ [.txa, .tya] ++ accumulatorShifts → d.a = c.a := by exact fun _ => rfl
  x        : i ∉ [.tax, .tsx, .inx, .dex] → d.x = c.x := by exact fun _ => rfl
  y        : i ∉ [.tay, .iny, .dey] → d.y = c.y := by exact fun _ => rfl
  sp       : i ≠ .txs → d.sp = c.sp := by exact fun _ => rfl
  pc       : i ∉ branchesAndJmp oo target → d.pc = c.pc := by exact fun _ => rfl
  zn       : i ∉ flaggedTransfers ++ indexCounts ++ accumulatorShifts → d.p.z = c.p.z ∧ d.p.n = c.p.n := by
    exact fun _ => ⟨rfl, rfl⟩
  carry    : i ∉ [.clc, .sec] ++ accumulatorShifts → d.p.c = c.p.c := by exact fun _ => rfl
  irqMask  : i ∉ [.cli, .sei] → d.p.i = c.p.i := by exact fun _ => rfl
  decimal  : i ∉ [.cld, .sed] → d.p.d = c.p.d := by exact fun _ => rfl
  overflow : i ≠ .clv → d.p.v = c.p.v := by exact fun _ => rfl

/-- An instruction that touches registers alone is a change of the CPU. -/
theorem exec_registers {oo : Byte} {target : Addr} {i : Instr} {s t : State}
    (hi : i ∈ flaggedTransfers ++ indexCounts ++ accumulatorShifts ++ flagWrites ++ branchesAndJmp oo target ++ [.txs, .nop])
    (h : exec i s = .next t) : ∃ d, t = s.setCpu d ∧ RegisterFrame oo target i s.cpu d := by
  by_cases jump : i ∈ branchesAndJmp oo target
  · obtain ⟨pc, n, rfl⟩ := exec_branchesAndJmp jump h
    exact ⟨_, rfl, { pc := absurd jump }⟩
  simp only [List.mem_append, jump, or_false] at hi
  cases i
  case txa | tya =>
    cases h
    exact ⟨_, rfl, { a := by simp, zn := by simp }⟩
  case tax | tsx | inx | dex =>
    cases h
    exact ⟨_, rfl, { x := by simp, zn := by simp }⟩
  case tay | iny | dey =>
    cases h
    exact ⟨_, rfl, { y := by simp, zn := by simp }⟩
  case txs =>
    cases h
    exact ⟨_, rfl, { sp := by simp }⟩
  case asl o | lsr o | rol o | ror o =>
    obtain rfl : o = .acc := by simpa using hi
    cases h
    exact ⟨_, rfl, { a := by simp, zn := by simp, carry := by simp }⟩
  case clc | sec =>
    cases h
    exact ⟨_, rfl, { carry := by simp }⟩
  case cli | sei =>
    cases h
    exact ⟨_, rfl, { irqMask := by simp }⟩
  case cld | sed =>
    cases h
    exact ⟨_, rfl, { decimal := by simp }⟩
  case clv =>
    cases h
    exact ⟨_, rfl, { overflow := by simp }⟩
  case nop =>
    cases h
    exact ⟨_, rfl, {}⟩
  all_goals simp at hi

/-- Settles O48: `exec_registers` says which parts of the CPU each instruction writes, and `RegistersOnly` that nothing
else changes. -/
theorem registerInstructionsFrame : Obligations.RegisterInstructionsFrame := by
  intro oo target i s t _ _ _ _ _ hi h
  obtain ⟨d, rfl, frame⟩ := exec_registers (oo := oo) (target := target) hi h
  have control := frame.only.sameControl
  obtain ⟨⟨only⟩, a, x, y, sp, pc, zn, carry, irqMask, decimal, overflow⟩ := frame
  exact ⟨rfl, control, by rw [State.setCpu_cpu, only], a, x, y, sp, pc, zn, carry, irqMask, decimal, overflow,
    by rw [State.setCpu_cpu, only], by rw [State.setCpu_cpu, only]⟩

end Sys2Proof.Machine

namespace Sys2Proof.Machine

/-! PROOFS. The family 42_stack.md: pushes (O23), pulls (O24), and what the instructions that use the stack or read the PC from
memory leave unchanged (O49).

Each instruction that uses the stack has one next state, by the laws of the stack (`push_eq`, `pullWord_eq` and their like), and
its frame, `StackFrame`, is read off that state. JMP indirect reads its pointer anywhere on the bus, so its frame is what
any bus read leaves, `ReadEffect`. -/

/-- Settles O23: the encodings are rows of the decoder's table, and the two are one push after 3 cycles, `push_eq`. -/
theorem pushesWriteTheStack : Obligations.PushesWriteTheStack :=
  ⟨fun _ _ => ⟨rfl, rfl⟩,
    fun s => ⟨congrArg Host.Outcome.next (push_eq s.cpu.a (s.spend 3)),
      congrArg Host.Outcome.next (push_eq (s.cpu.p.pushByte true) (s.spend 3))⟩⟩

/-- Settles O24: the encodings are rows of the decoder's table, and the two are a change of the CPU after one pull, `pull_eq`. -/
theorem pullsReadTheStack : Obligations.PullsReadTheStack := by
  refine ⟨fun _ _ => ⟨rfl, rfl⟩, fun s => ⟨?pla, ?plp⟩⟩
  case pla =>
    change Host.Outcome.next (pullA (s.spend 4)) = _
    rw [pullA, pull_eq]
    rfl
  case plp =>
    change Host.Outcome.next (pullP (s.spend 4)) = _
    rw [pullP, pull_eq]
    rfl

/-! ### The stack cells -/

/-- The memory `m'` reads as `m` but in the `n` stack cells from that of `sp` down, `sp` wrapping in page 1. -/
def SameOffStack (sp : Byte) (n : Nat) (m m' : Memory) : Prop :=
  ∀ k, (∀ j, j < n → k ≠ 0x100 + (sp - BitVec.ofNat 8 j).toNat) → m'.read k = m.read k

theorem SameOffStack.refl (sp : Byte) (n : Nat) (m : Memory) : SameOffStack sp n m m := fun _ _ => rfl

/-- A write at the stack cell of `q`, less than `n` below that of `sp`. -/
theorem SameOffStack.write {sp q : Byte} {n : Nat} {m m' : Memory} (h : SameOffStack sp n m m') (hq : (sp - q).toNat < n)
    (v : Byte) : SameOffStack sp n m (m'.write (0x100 + q.toNat) v) := by
  intro k away
  have cell : sp - BitVec.ofNat 8 (sp - q).toNat = q := by rw [BitVec.ofNat_toNat, BitVec.setWidth_eq, sub_sub_cancel]
  have apart : k ≠ 0x100 + q.toNat := cell ▸ away _ hq
  rw [Store.read_write_other _ _ apart, h k away]

/-! ### The frame of the stack instructions and of JMP indirect -/

/-- What the instruction `i`, which pushes `n` bytes, leaves of the state `s`. By default a part stays and `i` is none of those
that a field names, so a proof of this names the parts that its instruction writes. -/
structure StackFrame (target : Addr) (i : Instr) (n : Nat) (s t : State) : Prop where
  ram        : SameOffStack s.cpu.sp n s.ram t.ram := by exact .refl _ _ _
  outside    : i ≠ .jmpInd target → SameOutsideCpu { s with ram := t.ram } t := by exact fun _ => rfl
  memories   : i = .jmpInd target → SameMemories s t ∧ t.cpu.sp = s.cpu.sp := by exact nofun
  control    : SameControl s t := by exact ⟨rfl, rfl, rfl, rfl, rfl, rfl, rfl, rfl, rfl⟩
  stall      : t.cpu.dmaStall = s.cpu.dmaStall := by exact rfl
  a          : i ≠ .pla → t.cpu.a = s.cpu.a := by exact fun _ => rfl
  x          : t.cpu.x = s.cpu.x := by exact rfl
  y          : t.cpu.y = s.cpu.y := by exact rfl
  flags      : i ∈ [.pha, .php, .jsr target, .rts, .jmpInd target] → t.cpu.p = s.cpu.p := by exact fun _ => rfl
  brk        : i = .brk → t.cpu.p = { s.cpu.p with i := true } := by exact nofun
  pla        : i = .pla → t.cpu.p = { s.cpu.p with z := t.cpu.p.z, n := t.cpu.p.n } := by exact nofun
  breakFlag  : t.cpu.p.b = s.cpu.p.b := by exact rfl
  unusedFlag : t.cpu.p.u = s.cpu.p.u := by exact rfl
  pc         : i ∈ [.pha, .php, .pla, .plp] → t.cpu.pc = s.cpu.pc := by exact fun _ => rfl

/-- The pointer read of JMP indirect may have a device's side effects, so its frame is that of a bus read. -/
theorem jumpThrough_frame (pointer : Addr) (s : State) :
    StackFrame pointer (.jmpInd pointer) 0 s (jumpThrough pointer (s.spend 5)) := by
  have read := read16InPage_effect (hiByte pointer) (loByte pointer) (s.spend 5)
  rw [jumpThrough]
  generalize read16InPage (hiByte pointer) (loByte pointer) (s.spend 5) = r at read ⊢
  have cpu : (r.2.setPc r.1).cpu = { s.cpu with cycles := s.cpu.cycles + 5, pc := r.1 } :=
    congrArg (fun c : Cpu => { c with pc := r.1 }) read.cpu
  have control := (spend_sameControl 5 s).trans read.toWrite.sameControl
  have moved : SameControl r.2 (r.2.setPc r.1) := RegistersOnly.sameControl ⟨rfl⟩
  exact {
    ram := fun k _ => read.sameMemories.ram k
    outside := absurd rfl
    memories := fun _ => ⟨read.sameMemories.setCpu s.cpu _, by rw [cpu]⟩
    control := control.trans moved
    stall := by rw [cpu]
    a := fun _ => by rw [cpu]
    x := by rw [cpu]
    y := by rw [cpu]
    flags := fun _ => by rw [cpu]
    breakFlag := by rw [cpu]
    unusedFlag := by rw [cpu]
    pc := by simp }

/-- The stack instructions and JMP indirect, each with the count of bytes it pushes. -/
abbrev stackInstructions (target : Addr) : List (Instr × Nat) :=
  [(.pha, 1), (.php, 1), (.jsr target, 2), (.brk, 3), (.pla, 0), (.plp, 0), (.rts, 0), (.rti, 0), (.jmpInd target, 0)]

/-- By the law of the one stack operation each instruction is made of. -/
theorem exec_stack {target : Addr} {i : Instr} {n : Nat} {s t : State} (hi : (i, n) ∈ stackInstructions target)
    (h : exec i s = .next t) : StackFrame target i n s t := by
  have start : ∀ m, SameOffStack s.cpu.sp n m m := SameOffStack.refl _ _
  cases i
  case pha | php =>
    obtain rfl : n = 1 := by simpa using hi
    cases h
    rw [push_eq]
    exact { ram := (start _).write (by simp) _ }
  case pla =>
    obtain rfl : n = 0 := by simpa using hi
    cases h
    rw [pullA, pull_eq]
    exact { a := by simp, flags := by simp, pla := fun _ => rfl }
  case plp =>
    obtain rfl : n = 0 := by simpa using hi
    cases h
    rw [pullP, pull_eq]
    exact { flags := by simp }
  case jsr a =>
    obtain ⟨rfl, rfl⟩ : a = target ∧ n = 2 := by simpa using hi
    cases h
    rw [callSubroutine, pushWord_eq]
    exact { ram := ((start _).write (by simp) _).write (by simp) _, pc := by simp }
  case rts =>
    obtain rfl : n = 0 := by simpa using hi
    cases h
    rw [returnFromSubroutine, pullWord_eq]
    exact { pc := by simp }
  case brk =>
    obtain rfl : n = 3 := by simpa using hi
    cases h
    rw [breakInterrupt, enterInterrupt_eq _ _ (by decide) (by decide)]
    exact {
      ram := (((start _).write (by simp) _).write (by simp) _).write (by simp) _
      flags := by simp
      brk := fun _ => rfl
      pc := by simp }
  case rti =>
    obtain rfl : n = 0 := by simpa using hi
    cases h
    rw [returnFromInterrupt_eq]
    exact { flags := by simp, pc := by simp }
  case jmpInd a =>
    obtain ⟨rfl, rfl⟩ : a = target ∧ n = 0 := by simpa using hi
    cases h
    exact jumpThrough_frame a s
  all_goals simp at hi

/-- Settles O49: `exec_stack` gives each instruction's frame, which is the statement part by part. -/
theorem stackInstructionsFrame : Obligations.StackInstructionsFrame := by
  intro target i n s t hi h
  obtain ⟨ram, outside, memories, control, stall, a, x, y, flags, brk, pla, breakFlag, unusedFlag, pc⟩ := exec_stack hi h
  exact ⟨ram, outside, memories, control, stall, a, x, y, flags, brk, pla, breakFlag, unusedFlag, pc⟩

end Sys2Proof.Machine

namespace Sys2Proof.Machine

/-! PROOFS. The family 43_arithmetic.md: binary and decimal addition and subtraction (O25 to O28), comparisons (O29), increments
and decrements of memory and of registers (O30, O31), and what the instructions that modify memory leave unchanged (O47).

Overflow is read off the sign bits; a subtraction is the addition of the complement; decimal results are first stated for
any operands, and the BCD statement is arithmetic from there. O47 is one bus read and then one bus write, each by its law. -/

/-! ### Binary addition and subtraction (R191, R193) -/

/-- A masked bit 7 is the sign. -/
theorem and_0x80_bne_zero (x : Byte) : (x &&& 0x80 != 0) = x.msb := by
  revert x
  decide

theorem adcBinary_v_eq (a m : Byte) (c : Bool) :
    (adcBinary a m c).v = ((a.msb ^^ (adcBinary a m c).r.msb) && (m.msb ^^ (adcBinary a m c).r.msb)) := by
  rw [← BitVec.msb_xor, ← BitVec.msb_xor, ← BitVec.msb_and, ← and_0x80_bne_zero]
  rfl

theorem adcBinary_r_toNat (a m : Byte) (c : Bool) : (adcBinary a m c).r.toNat = (a.toNat + m.toNat + c.toNat) % 256 :=
  BitVec.toNat_ofNat _ _

theorem adcBinary_c_iff (a m : Byte) (c : Bool) : (adcBinary a m c).c = true ↔ 255 < a.toNat + m.toNat + c.toNat :=
  decide_eq_true_iff

theorem adcBinary_z_iff (a m : Byte) (c : Bool) : (adcBinary a m c).z = true ↔ (adcBinary a m c).r = 0 := beq_iff_eq

/-- The result differs in sign from both operands exactly when the signed sum is out of range. -/
theorem adcBinary_v_iff (a m : Byte) (c : Bool) :
    (adcBinary a m c).v = true ↔ a.toInt + m.toInt + c.toNat < -128 ∨ 127 < a.toInt + m.toInt + c.toNat := by
  have := a.isLt
  have := m.isLt
  have := c.toNat_le
  rw [adcBinary_v_eq]
  simp only [BitVec.toInt_eq_msb_cond, BitVec.msb_eq_decide, adcBinary_r_toNat]
  by_cases ha : 128 ≤ a.toNat <;> by_cases hm : 128 ≤ m.toNat <;> simp [ha, hm] <;> omega

/-- Settles O26: the overflow is `adcBinary_v_iff`, the rest the definition's own fields. -/
theorem adcBinaryIsExactAddition : Obligations.AdcBinaryIsExactAddition := fun a m c =>
  ⟨adcBinary_r_toNat a m c, adcBinary_c_iff a m c, adcBinary_v_iff a m c, adcBinary_z_iff a m c, rfl⟩

theorem complement_toNat (m : Byte) : (m ^^^ 0xFF).toNat = 255 - m.toNat := by
  rw [show m ^^^ 0xFF = ~~~m from BitVec.xor_allOnes, BitVec.toNat_not]

theorem complement_toInt (m : Byte) : (m ^^^ 0xFF).toInt = -1 - m.toInt := by
  have := m.isLt
  simp only [BitVec.toInt_eq_toNat_cond, complement_toNat]
  split <;> split <;> omega

/-- No borrow out of bit 7. -/
theorem sbcBinary_c_iff (a m : Byte) (c : Bool) :
    (sbcBinary a m c).c = true ↔ (m.toNat : Int) + (1 - c.toNat) ≤ a.toNat := by
  have := m.isLt
  rw [sbcBinary, adcBinary_c_iff, complement_toNat]
  omega

/-- Settles O27: the statements about ADC, at the complement of M. -/
theorem sbcBinaryIsExactSubtraction : Obligations.SbcBinaryIsExactSubtraction := by
  intro a m c
  refine ⟨?difference, sbcBinary_c_iff a m c, ?overflow, adcBinary_z_iff _ _ _, rfl⟩
  case difference =>
    have := m.isLt
    rw [sbcBinary, adcBinary_r_toNat, complement_toNat]
    omega
  case overflow =>
    rw [sbcBinary, adcBinary_v_iff, complement_toInt]
    omega

/-! ### Decimal addition and subtraction (R192, R194) -/

/-- The sum of R192 before its high digit is adjusted: the low digits with the carry, adjusted from 10 up, and the high digits. -/
def decimalSum (a m : Byte) (c : Bool) : Nat :=
  let low := a.toNat % 16 + m.toNat % 16 + c.toNat
  a.toNat / 16 * 16 + m.toNat / 16 * 16 + if 10 ≤ low then (low + 6) % 16 + 16 else low

/-- The difference of R194 before its high digit is adjusted. -/
def decimalDifference (a m : Byte) (c : Bool) : Int :=
  let low : Int := (a.toNat % 16 : Nat) - (m.toNat % 16 : Nat) + (c.toNat : Nat) - 1
  (a.toNat / 16 * 16 : Nat) - (m.toNat / 16 * 16 : Nat) + if low < 0 then (low - 6) % 16 - 16 else low

theorem adcDecimal_n_iff (a m : Byte) (c : Bool) : (adcDecimal a m c).n = true ↔ 128 ≤ decimalSum a m c % 256 := by
  change (decimalSum a m c).testBit 7 = true ↔ _
  rw [Nat.testBit_eq_decide_div_mod_eq, decide_eq_true_iff]
  omega

theorem adcDecimal_c_iff (a m : Byte) (c : Bool) : (adcDecimal a m c).c = true ↔ 160 ≤ decimalSum a m c := by
  change decide ((if 160 ≤ decimalSum a m c then decimalSum a m c + 96 else decimalSum a m c) ≥ 256) = true ↔ _
  rw [decide_eq_true_iff]
  split <;> omega

theorem adcDecimal_r_toNat (a m : Byte) (c : Bool) : (adcDecimal a m c).r.toNat =
    (if 160 ≤ decimalSum a m c then decimalSum a m c + 96 else decimalSum a m c) % 256 :=
  BitVec.toNat_ofNat _ _

theorem sbcDecimal_r_toNat (a m : Byte) (c : Bool) : ((sbcDecimal a m c).r.toNat : Int) =
    (if decimalDifference a m c < 0 then decimalDifference a m c - 96 else decimalDifference a m c) % 256 := by
  change ((BitVec.ofInt 8 (if decimalDifference a m c < 0 then decimalDifference a m c - 96
    else decimalDifference a m c)).toNat : Int) = _
  rw [BitVec.toNat_ofInt]
  omega

/-- Adjusting a high digit above 9 leaves the digits modulo 100. -/
theorem adjusted_sum_mod_256 {h l : Nat} (hh : h ≤ 19) (hl : l ≤ 9) :
    (if 160 ≤ 16 * h + l then 16 * h + l + 96 else 16 * h + l) % 256 =
      16 * ((10 * h + l) % 100 / 10) + (10 * h + l) % 10 := by
  have mod100 : (10 * h + l) % 100 = 10 * (h % 10) + l := by omega
  rw [mod100]
  by_cases above : 10 ≤ h
  · rw [show h % 10 = h - 10 by omega]
    split <;> omega
  · rw [show h % 10 = h by omega]
    split <;> omega

/-- Adjusting a high digit below 0 leaves the digits modulo 100. -/
theorem adjusted_difference_mod_256 {h l : Int} (hh : -10 ≤ h) (hh' : h ≤ 9) (hl : 0 ≤ l) (hl' : l ≤ 9) :
    (if 16 * h + l < 0 then 16 * h + l - 96 else 16 * h + l) % 256 =
      16 * ((10 * h + l) % 100 / 10) + (10 * h + l) % 10 := by
  have mod100 : (10 * h + l) % 100 = 10 * (h % 10) + l := by omega
  rw [mod100]
  by_cases below : h < 0
  · rw [show h % 10 = h + 10 by omega]
    split <;> omega
  · rw [show h % 10 = h by omega]
    split <;> omega

section TwoDigits

variable {h1 l1 h2 l2 : Nat} (hh1 : h1 ≤ 9) (hl1 : l1 ≤ 9) (hh2 : h2 ≤ 9) (hl2 : l2 ≤ 9) (c : Bool)

/-- Two decimal digits as a byte. -/
abbrev bcdByte (h l : Nat) : Byte := BitVec.ofNat 8 (16 * h + l)

include hh1 hl1

theorem bcdByte_toNat : (bcdByte h1 l1).toNat = 16 * h1 + l1 := by
  rw [BitVec.toNat_ofNat]
  omega

include hh2 hl2

/-- A low digit above 9 carries 1 into the high digits: the sum has one low digit, and its tens in place of a high digit. -/
theorem decimalSum_bcdByte : ∃ h l, h ≤ 19 ∧ l ≤ 9 ∧ 10 * h1 + l1 + (10 * h2 + l2) + c.toNat = 10 * h + l ∧
    decimalSum (bcdByte h1 l1) (bcdByte h2 l2) c = 16 * h + l := by
  have := c.toNat_le
  rw [decimalSum, bcdByte_toNat hh1 hl1, bcdByte_toNat hh2 hl2]
  by_cases carries : 10 ≤ l1 + l2 + c.toNat
  · refine ⟨h1 + h2 + 1, l1 + l2 + c.toNat - 10, by omega, by omega, by omega, ?_⟩
    split <;> omega
  · refine ⟨h1 + h2, l1 + l2 + c.toNat, by omega, by omega, by omega, ?_⟩
    split <;> omega

/-- A low digit below 0 borrows 1 from the high digits. -/
theorem decimalDifference_bcdByte : ∃ h l : Int, -10 ≤ h ∧ h ≤ 9 ∧ 0 ≤ l ∧ l ≤ 9 ∧
    (10 * h1 + l1 : Nat) - (10 * h2 + l2 : Nat) - (1 - (c.toNat : Int)) = 10 * h + l ∧
    decimalDifference (bcdByte h1 l1) (bcdByte h2 l2) c = 16 * h + l := by
  have := c.toNat_le
  rw [decimalDifference, bcdByte_toNat hh1 hl1, bcdByte_toNat hh2 hl2]
  by_cases borrows : (l1 : Int) - l2 + c.toNat - 1 < 0
  · refine ⟨h1 - h2 - 1, l1 - l2 + c.toNat + 9, by omega, by omega, by omega, by omega, by omega, ?_⟩
    split <;> omega
  · refine ⟨h1 - h2, l1 - l2 + c.toNat - 1, by omega, by omega, by omega, by omega, by omega, ?_⟩
    split <;> omega

theorem adcDecimal_r_bcdByte : (adcDecimal (bcdByte h1 l1) (bcdByte h2 l2) c).r.toNat =
    16 * ((10 * h1 + l1 + (10 * h2 + l2) + c.toNat) % 100 / 10) + (10 * h1 + l1 + (10 * h2 + l2) + c.toNat) % 10 := by
  obtain ⟨h, l, hh, hl, digits, sum⟩ := decimalSum_bcdByte hh1 hl1 hh2 hl2 c
  rw [adcDecimal_r_toNat, sum, digits, adjusted_sum_mod_256 hh hl]

theorem adcDecimal_c_bcdByte : (adcDecimal (bcdByte h1 l1) (bcdByte h2 l2) c).c = true ↔
    100 ≤ 10 * h1 + l1 + (10 * h2 + l2) + c.toNat := by
  obtain ⟨h, l, -, hl, digits, sum⟩ := decimalSum_bcdByte hh1 hl1 hh2 hl2 c
  rw [adcDecimal_c_iff, sum, digits]
  omega

theorem sbcDecimal_r_bcdByte : ((sbcDecimal (bcdByte h1 l1) (bcdByte h2 l2) c).r.toNat : Int) =
    16 * (((10 * h1 + l1 : Nat) - (10 * h2 + l2 : Nat) - (1 - (c.toNat : Int))) % 100 / 10) +
      ((10 * h1 + l1 : Nat) - (10 * h2 + l2 : Nat) - (1 - (c.toNat : Int))) % 10 := by
  obtain ⟨h, l, hh, hh', hl, hl', digits, difference⟩ := decimalDifference_bcdByte hh1 hl1 hh2 hl2 c
  rw [sbcDecimal_r_toNat, difference, digits, adjusted_difference_mod_256 hh hh' hl hl']

/-- No borrow out of the digits, as no borrow out of bit 7 of the binary difference that gives the carry. -/
theorem sbcDecimal_c_bcdByte : (sbcDecimal (bcdByte h1 l1) (bcdByte h2 l2) c).c = true ↔
    0 ≤ (10 * h1 + l1 : Nat) - (10 * h2 + l2 : Nat) - (1 - (c.toNat : Int)) := by
  have := c.toNat_le
  change (sbcBinary _ _ c).c = true ↔ _
  rw [sbcBinary_c_iff, bcdByte_toNat hh1 hl1, bcdByte_toNat hh2 hl2]
  omega

end TwoDigits

/-- Settles O28: on any operands by the fields of the two definitions, on two digits each by the digits of the sum and of the
difference, whose tens the adjustment of the high digit brings into 0 to 9. -/
theorem decimalArithmeticIsBcd : Obligations.DecimalArithmeticIsBcd :=
  ⟨fun a m c => ⟨adcDecimal_n_iff a m c, decide_eq_true_iff, adcDecimal_c_iff a m c, beq_iff_eq, adcDecimal_r_toNat a m c⟩,
    fun a m c => ⟨rfl, rfl, rfl, rfl, sbcDecimal_r_toNat a m c⟩,
    fun _ _ _ _ c hh1 hl1 hh2 hl2 =>
      ⟨adcDecimal_r_bcdByte hh1 hl1 hh2 hl2 c, adcDecimal_c_bcdByte hh1 hl1 hh2 hl2 c,
        sbcDecimal_r_bcdByte hh1 hl1 hh2 hl2 c, sbcDecimal_c_bcdByte hh1 hl1 hh2 hl2 c⟩⟩

/-! ### The instructions as their encodings and next states -/

/-- ADC and SBC use their decimal rules exactly when `DECIMAL_MODE = nmos` and D = 1 (R190). -/
theorem decimalOn_iff (cfg : Params) (p : Flags) : decimalOn cfg p = true ↔ cfg.decimalMode = .nmos ∧ p.d = true := by
  rw [decimalOn, Bool.and_eq_true, beq_iff_eq]

theorem adcResult_eq (cfg : Params) (p : Flags) (a m : Byte) : adcResult cfg p a m =
    if cfg.decimalMode = .nmos ∧ p.d = true then adcDecimal a m p.c else adcBinary a m p.c := by
  simp only [adcResult, decimalOn_iff]

theorem sbcResult_eq (cfg : Params) (p : Flags) (a m : Byte) : sbcResult cfg p a m =
    if cfg.decimalMode = .nmos ∧ p.d = true then sbcDecimal a m p.c else sbcBinary a m p.c := by
  simp only [sbcResult, decimalOn_iff]

/-- ADC and SBC as their operand read, A and the four flags, from the result that the mode in force gives. -/
theorem exec_arith {f : Params → Flags → Byte → Byte → AluResult} {i : Instr} {o : ReadOperand} {s : State} {q : AluResult}
    (hi : (i, f) ∈ [(.adc o, adcResult), (.sbc o, sbcResult)]) (hq : f s.cfg s.cpu.p s.cpu.a (readOperand o s).1 = q) :
    exec i s = .next (((readOperand o s).2.setA q.r).setP ((readOperand o s).2.cpu.p.setAlu q)) := by
  subst hq
  simp only [List.mem_cons, Prod.mk.injEq, List.not_mem_nil, or_false] at hi
  obtain ⟨rfl, rfl⟩ | ⟨rfl, rfl⟩ := hi
  all_goals rfl

/-- Settles O25: the encodings are rows of the decoder's table, and `adcResult_eq` and `sbcResult_eq` say which rule gives the
result. -/
theorem adcSbcComplete : Obligations.AdcSbcComplete :=
  ⟨fun _ _ => ⟨rfl, rfl, rfl, rfl, rfl, rfl, rfl, rfl, rfl, rfl, rfl, rfl, rfl, rfl, rfl, rfl⟩,
    fun _ _ => ⟨fun binary => exec_arith (by simp) ((adcResult_eq _ _ _ _).trans (if_neg binary)),
      fun binary => exec_arith (by simp) ((sbcResult_eq _ _ _ _).trans (if_neg binary)),
      fun decimal => exec_arith (by simp) ((adcResult_eq _ _ _ _).trans (if_pos decimal)),
      fun decimal => exec_arith (by simp) ((sbcResult_eq _ _ _ _).trans (if_pos decimal))⟩⟩

/-- Settles O29: the encodings are rows of the decoder's table, and a comparison is its operand read and a write of the flags. -/
theorem comparesSetNZC : Obligations.ComparesSetNZC :=
  ⟨fun _ _ => ⟨rfl, rfl, rfl, rfl, rfl, rfl, rfl, rfl, rfl, rfl, rfl, rfl, rfl, rfl⟩,
    fun _ _ => ⟨rfl, rfl, rfl⟩⟩

/-- Settles O30: the encodings are rows of the decoder's table, and both are `modifyMem`, one read and then one write. -/
theorem incDecMemory : Obligations.IncDecMemory :=
  ⟨fun _ _ => ⟨rfl, rfl, rfl, rfl, rfl, rfl, rfl, rfl⟩, fun _ _ => ⟨rfl, rfl⟩⟩

/-- Settles O31: the encodings are rows of the decoder's table, and each is its cycles and two writes of the CPU. -/
theorem incDecRegisters : Obligations.IncDecRegisters :=
  ⟨fun _ _ => ⟨rfl, rfl, rfl, rfl⟩, fun _ => ⟨rfl, rfl, rfl, rfl⟩⟩

/-! ### What the instructions that modify memory leave -/

/-- The instruction `i` modifies the byte at the address of `m` by `f`, which gives the new flags too: Z and N, and C for a shift. -/
structure ModifiesBy (m : EaMode) (i : Instr) (f : Byte → Flags → Byte × Flags) : Prop where
  exec  : ∀ s, exec i s = .next (modifyMem m f s) := by exact fun _ => rfl
  flags : ∀ v p, (f v p).2 = { p with c := (f v p).2.c, z := (f v p).2.z, n := (f v p).2.n } := by exact fun _ _ => rfl
  carry : i ∈ [.inc m, .dec m] → ∀ v p, (f v p).2.c = p.c := by exact fun _ _ _ => rfl

/-- The six instructions that modify memory, each with its new byte of an old byte and a carry. -/
theorem exists_modifiesBy {m : EaMode} {i : Instr} {old v : Byte} {p : Flags}
    (h : (i, v) ∈ [(.inc m, old + 1), (.dec m, old - 1), (.asl (.mem m), old <<< 1), (.lsr (.mem m), old >>> 1),
      (.rol (.mem m), (old <<< 1) ||| (BitVec.ofBool p.c).setWidth 8),
      (.ror (.mem m), ((BitVec.ofBool p.c).setWidth 8 <<< 7) ||| (old >>> 1))]) :
    ∃ f, ModifiesBy m i f ∧ v = (f old p).1 := by
  simp only [List.mem_cons, Prod.mk.injEq, List.not_mem_nil, or_false] at h
  obtain ⟨rfl, rfl⟩ | ⟨rfl, rfl⟩ | ⟨rfl, rfl⟩ | ⟨rfl, rfl⟩ | ⟨rfl, rfl⟩ | ⟨rfl, rfl⟩ := h
  · exact ⟨incByte, {}, rfl⟩
  · exact ⟨decByte, {}, rfl⟩
  · exact ⟨aslByte, { carry := by simp }, rfl⟩
  · exact ⟨lsrByte, { carry := by simp }, rfl⟩
  · exact ⟨rolByte, { carry := by simp }, rfl⟩
  · exact ⟨rorByte, { carry := by simp }, rfl⟩

/-- The read of a read-modify-write (R156): the old byte, with the state in which the new one is written. -/
def modifyRead (m : EaMode) (s : State) : Byte × State :=
  memRead (resolve m s).1.ea ((resolve m s).2.spend (modifyCycles m))

theorem modifyRead_effect (m : EaMode) (s : State) : ReadEffect (s.spend (modifyCycles m)) (modifyRead m s).2 :=
  ((resolve_effect m s).spend _).trans (memRead_effect _ _)

theorem modifyRead_ram {m : EaMode} {s : State} (h : (resolve m s).1.ea.toNat ≤ 0x1FFF) :
    (modifyRead m s).1 = s.ram.read ((resolve m s).1.ea.toNat % 0x800) := by
  rw [modifyRead, memRead_ram h, State.spend_ram, resolve_ram]

/-- Outside the PPU registers and the I/O window the read leaves the PPU, and of the ports changes the bus latch alone. -/
theorem modifyRead_plain {m : EaMode} {s : State}
    (h : (resolve m s).1.ea.toNat < 0x2000 ∨ 0x4020 ≤ (resolve m s).1.ea.toNat) :
    (modifyRead m s).2.ppu = s.ppu ∧ ∃ latch, (modifyRead m s).2.io = { s.io with cpuBusLatch := latch } := by
  obtain ⟨latch, before⟩ := resolve_spend m (modifyCycles m) s
  rw [modifyRead, memRead_plain h, before]
  exact ⟨rfl, _, rfl⟩

/-- A read-modify-write is its read, one bus write, and a write of the flags. -/
theorem modifyMem_eq (m : EaMode) (f : Byte → Flags → Byte × Flags) (s : State) :
    modifyMem m f s =
      (memWrite (resolve m s).1.ea (f (modifyRead m s).1 s.cpu.p).1 (modifyRead m s).2).setP
        (f (modifyRead m s).1 s.cpu.p).2 := by
  have flags : (modifyRead m s).2.cpu.p = s.cpu.p := by rw [(modifyRead_effect m s).cpu, State.spend_cpu_p]
  rw [← flags]
  rfl

/-- The flags are no part of the control state. -/
theorem setP_sameControl (p : Flags) (s : State) : SameControl s (s.setP p) := ⟨rfl, rfl, rfl, rfl, rfl, rfl, rfl, rfl, rfl⟩

/-- Settles O47: the laws of the one bus write, from the state that `modifyRead` has left. -/
theorem modifyInstructionsFrame : Obligations.ModifyInstructionsFrame := by
  intro m i v s t
  dsimp only
  intro hi h
  obtain ⟨f, modifies, rfl⟩ := exists_modifiesBy hi
  obtain rfl : modifyMem m f s = t := Host.Outcome.next.inj ((modifies.exec s).symm.trans h)
  rw [modifyMem_eq]
  have flags := modifies.flags (modifyRead m s).1 s.cpu.p
  have carry := fun counts => modifies.carry counts (modifyRead m s).1 s.cpu.p
  have read := modifyRead_effect m s
  have oldByte := modifyRead_ram (m := m) (s := s)
  have plainRead := modifyRead_plain (m := m) (s := s)
  generalize (resolve m s).1.ea = ea at oldByte plainRead ⊢
  generalize modifyRead m s = r at *
  have write := memWrite_effect ea (f r.1 s.cpu.p).1 r.2
  obtain ⟨addressSpace, oam⟩ := memWrite_memories ea (f r.1 s.cpu.p).1 r.2
  have control := (spend_sameControl _ s).trans (read.toWrite.trans write).sameControl
  refine ⟨control.trans (setP_sameControl _ _), write.cart.trans read.cart, ?cpu, carry, fun ram => ?cell,
    fun a _ other => ?otherCell, fun notData => ?addressSpace, fun notOamData notDma k => ?oam, fun notDma => ?stall,
    fun plain => ?plain⟩
  case cpu =>
    rw [State.setP, State.setCpu_cpu, write.cpu, read.cpu, flags]
    rfl
  case cell =>
    rw [← oldByte ram]
    exact memWrite_ram_read_same ram _ _
  case otherCell => exact (memWrite_ram_read_other other _ _).trans (read.sameMemories.ram _)
  case addressSpace =>
    obtain ⟨chrRam, ciram, palette⟩ := addressSpace notData
    exact ⟨fun k => (congrArg (·.read k) chrRam).trans (read.sameMemories.chrRam k),
      fun k => (congrArg (·.read k) ciram).trans (read.sameMemories.ciram k),
      fun k => (congrArg (·.read k) palette).trans (read.sameMemories.palette k)⟩
  case oam => exact (congrArg (·.read k) (oam notOamData notDma)).trans (read.sameMemories.oam k)
  case stall => rw [State.setP_cpu_dmaStall, memWrite_cpu_of_ne notDma, read.cpu, State.spend_cpu_dmaStall]
  case plain =>
    obtain ⟨ppu, latch, io⟩ := plainRead plain
    rw [memWrite_plain plain]
    exact ⟨ppu, read.chrRam, read.out, by simp [io]⟩

end Sys2Proof.Machine

namespace Sys2Proof.Machine

/-! PROOFS. The family 44_logic_shift.md: AND, ORA and EOR (O32), BIT (O33), shifts and rotates (O34), and that the two rotates of
the accumulator undo each other (O35).

A rotate is said bit by bit, with the carry as the ninth bit; that the rotates undo each other is read off those bits. What BIT does
at Status is what the read of that register answers and leaves. -/

/-! ### The rotates bit by bit (R227, R228) -/

/-- ROL moves each bit one place up, and the carry into bit 0. -/
theorem rolByte_getLsbD (v : Byte) (p : Flags) {i : Nat} (h : i < 8) :
    (rolByte v p).1.getLsbD i = if i = 0 then p.c else v.getLsbD (i - 1) := by
  by_cases zero : i = 0
  · simp [rolByte, zero]
  · simp [rolByte, h, zero, BitVec.getLsbD_eq_getElem (show i - 1 < 8 by omega)]

/-- ROR moves each bit one place down, and the carry into bit 7. -/
theorem rorByte_getLsbD (v : Byte) (p : Flags) {i : Nat} (h : i < 8) :
    (rorByte v p).1.getLsbD i = if i = 7 then p.c else v.getLsbD (i + 1) := by
  by_cases seven : i = 7
  · simp [rorByte, seven]
  · simp [rorByte, h, seven, show i < 7 by omega, Nat.add_comm]

theorem rolByte_c (v : Byte) (p : Flags) : (rolByte v p).2.c = v.getLsbD 7 := rfl

theorem rorByte_c (v : Byte) (p : Flags) : (rorByte v p).2.c = v.getLsbD 0 := rfl

/-- ROR after ROL: bit 7 comes back from the carry, every other bit from one place up, and the carry from bit 0. -/
theorem rorByte_rolByte (v : Byte) (p : Flags) :
    (rorByte (rolByte v p).1 (rolByte v p).2).1 = v ∧ (rorByte (rolByte v p).1 (rolByte v p).2).2.c = p.c := by
  refine ⟨BitVec.eq_of_getLsbD_eq fun i h => ?byte, ?carry⟩
  case byte =>
    rw [rorByte_getLsbD _ _ h]
    by_cases seven : i = 7
    · rw [if_pos seven, rolByte_c, seven]
    · rw [if_neg seven, rolByte_getLsbD _ _ (by omega), if_neg (by omega), Nat.add_sub_cancel]
  case carry => rw [rorByte_c, rolByte_getLsbD _ _ (by omega), if_pos rfl]

/-- ROL after ROR: bit 0 comes back from the carry, every other bit from one place down, and the carry from bit 7. -/
theorem rolByte_rorByte (v : Byte) (p : Flags) :
    (rolByte (rorByte v p).1 (rorByte v p).2).1 = v ∧ (rolByte (rorByte v p).1 (rorByte v p).2).2.c = p.c := by
  refine ⟨BitVec.eq_of_getLsbD_eq fun i h => ?byte, ?carry⟩
  case byte =>
    rw [rolByte_getLsbD _ _ h]
    by_cases zero : i = 0
    · rw [if_pos zero, rorByte_c, zero]
    · rw [if_neg zero, rorByte_getLsbD _ _ (by omega), if_neg (by omega), Nat.sub_add_cancel (by omega)]
  case carry => rw [rolByte_c, rorByte_getLsbD _ _ (by omega), if_pos rfl]

/-- Settles O35: what the two instructions leave in A and C is what their byte functions give, which undo each other. -/
theorem rotateRightUndoesRotateLeft : Obligations.RotateRightUndoesRotateLeft := by
  intro s t u
  refine ⟨fun left right => ?leftRight, fun right left => ?rightLeft⟩
  case leftRight =>
    cases left
    cases right
    exact rorByte_rolByte s.cpu.a s.cpu.p
  case rightLeft =>
    cases right
    cases left
    exact rolByte_rorByte s.cpu.a s.cpu.p

/-! ### The instructions as their encodings and next states -/

/-- Settles O32: the encodings are rows of the decoder's table, and the three are `logic`, the operand read and then a write of A and
of the flags. -/
theorem logicInstructions : Obligations.LogicInstructions :=
  ⟨fun _ _ => ⟨rfl, rfl, rfl, rfl, rfl, rfl, rfl, rfl, rfl, rfl, rfl, rfl, rfl, rfl, rfl, rfl, rfl, rfl, rfl, rfl, rfl, rfl, rfl,
    rfl⟩, fun _ _ => ⟨rfl, rfl, rfl⟩⟩

/-- Settles O34: the encodings are rows of the decoder's table; on the accumulator the four are `modifyAcc`, on memory `modifyMem`,
one read and then one write. -/
theorem shiftsAndRotates : Obligations.ShiftsAndRotates :=
  ⟨fun _ _ => ⟨rfl, rfl, rfl, rfl, rfl, rfl, rfl, rfl, rfl, rfl, rfl, rfl, rfl, rfl, rfl, rfl, rfl, rfl, rfl, rfl⟩,
    fun _ => ⟨rfl, rfl, rfl, rfl⟩, fun _ _ => ⟨rfl, rfl, rfl, rfl⟩⟩

/-! ### BIT, and the read of Status (50_ppu_registers.md R306) -/

/-- Bit 7 of the byte that Status answers is VBlank, and bit 6 the sprite-0 hit. -/
theorem statusRead_flags (s : State) :
    (statusRead s).1.getLsbD 7 = s.ppu.vblank ∧ (statusRead s).1.getLsbD 6 = s.ppu.sprite0Hit :=
  ⟨(getLsbD_append4 _ _ _ _ 7).trans (by simp [openBus, State.nextDraw]),
    (getLsbD_append4 _ _ _ _ 6).trans (by simp [openBus, State.nextDraw])⟩

/-- A bus read of Status answers the register's byte and clears VBlank and the write toggle. -/
theorem memRead_status (s : State) :
    (memRead 0x2002 s).1 = (statusRead s).1 ∧
    (memRead 0x2002 s).2.ppu = { s.ppu with vblank := false, w := false, ioLatch := (statusRead s).1 } := by
  rw [memRead, route_ppu (by decide) (by decide)]
  exact ⟨rfl, rfl⟩

/-- BIT takes N and V from the operand it reads, and leaves the PPU as that read does. -/
theorem bitTestMem_fields (m : EaMode) (s : State) :
    (bitTestMem m s).cpu.p.n = (readMem m s).1.getLsbD 7 ∧ (bitTestMem m s).cpu.p.v = (readMem m s).1.getLsbD 6 ∧
    (bitTestMem m s).ppu = (readMem m s).2.ppu := ⟨rfl, rfl, rfl⟩

/-- Settles O33: the encodings are rows of the decoder's table, BIT is its operand read and a write of the flags, and at Status the
operand is the byte of `memRead_status`, with the flags of `statusRead_flags`. -/
theorem bitTestsTheOperand : Obligations.BitTestsTheOperand := by
  refine ⟨fun _ _ => ⟨rfl, rfl⟩, fun _ _ => rfl, fun s => ⟨bitTestMem (.abs 0x2002) s, rfl, ?status⟩⟩
  obtain ⟨n, v, ppu⟩ := bitTestMem_fields (.abs 0x2002) s
  have read : readMem (.abs 0x2002) s = memRead 0x2002 (s.spend 4) := rfl
  obtain ⟨byte, after⟩ := memRead_status (s.spend 4)
  obtain ⟨vblank, hit⟩ := statusRead_flags (s.spend 4)
  rw [n, v, ppu, read, byte, after]
  exact ⟨vblank, hit, rfl, rfl⟩

end Sys2Proof.Machine

namespace Sys2Proof.Machine

/-! PROOFS. The family 45_control_flow.md: JSR and RTS (O38), that RTS undoes JSR (O39), branches (O36) and jumps (O37).

A branch has one next state for each value of its condition, `branch_eq`. JSR and RTS are a word pushed and a word pulled, by
the laws of the stack (`pushWord_eq`, `pullWord_eq`); that RTS undoes JSR is that a pull gives the word that was pushed. -/

/-! ### Branches and jumps (R240 to R250) -/

/-- A taken branch counts one more cycle when its target is in another page (R153, R240). -/
theorem branch_eq (cond : Bool) (oo : Byte) (s : State) :
    branch cond oo s =
      if cond then
        { s with cpu := { s.cpu with
          pc := branchTarget s.cpu.pc oo
          cycles := s.cpu.cycles + (2 + 1 + if hiByte s.cpu.pc = hiByte (branchTarget s.cpu.pc oo) then 0 else 1) } }
      else { s with cpu := { s.cpu with cycles := s.cpu.cycles + 2 } } := by
  cases cond with
  | false => rfl
  | true =>
    simp only [branch, if_true, Bool.toNat, cond_eq_ite, bne_iff_ne, ne_eq, ite_not]
    rfl

/-- Settles O36: the encodings are rows of the decoder's table, and each instruction is the branch of `branch_eq` on its flag. -/
theorem branchesFollowTheirFlag : Obligations.BranchesFollowTheirFlag := by
  refine ⟨fun _ _ => ⟨rfl, rfl, rfl, rfl, rfl, rfl, rfl, rfl⟩, fun oo s => ?next⟩
  have next (cond : Bool) := congrArg (Host.Outcome.next (φ := Fault) (ρ := Refusal)) (branch_eq cond oo s)
  exact ⟨next _, next _, next _, next _, next _, next _, next _, next _⟩

/-- The pointer of JMP indirect is read within its page (R250, R154). -/
theorem jumpThrough_addrOf (page z : Byte) (s : State) :
    jumpThrough (addrOf page z) s = (read16InPage page z s).2.setPc (read16InPage page z s).1 := by
  rw [jumpThrough, hiByte_addrOf, loByte_addrOf]

/-- Settles O37: the encodings are rows of the decoder's table, JMP absolute is a change of the CPU, and JMP indirect the two bus
reads of `jumpThrough_addrOf`. -/
theorem jumpsSetThePc : Obligations.JumpsSetThePc :=
  ⟨fun _ _ => ⟨rfl, rfl⟩, fun _ _ => rfl, fun hh ll s => congrArg Host.Outcome.next (jumpThrough_addrOf hh ll (s.spend 5))⟩

/-! ### Subroutines (R251, R252) -/

/-- Settles O38: the encodings are rows of the decoder's table, and after 6 cycles JSR is one pushed word, `pushWord_eq`, and RTS
one pulled word, `pullWord_eq`, each followed by a write of PC. -/
theorem callAndReturn : Obligations.CallAndReturn := by
  refine ⟨fun _ _ => ⟨rfl, rfl⟩, fun target s => ⟨?jsr, ?rts⟩⟩
  case jsr =>
    change Host.Outcome.next (callSubroutine target (s.spend 6)) = _
    rw [callSubroutine, pushWord_eq]
    rfl
  case rts =>
    change Host.Outcome.next (returnFromSubroutine (s.spend 6)) = _
    rw [returnFromSubroutine, pullWord_eq]
    rfl

/-- A word comes back from the stack, and SP with it, in any state `u` with the SP and the page 1 that the push left. -/
theorem pullWord_pushWord {a : Addr} {s u : State} (sp : u.cpu.sp = (pushWord a s).cpu.sp)
    (page : ∀ k, 0x100 ≤ k → k ≤ 0x1FF → u.ram.read k = (pushWord a s).ram.read k) :
    (pullWord u).1 = a ∧ (pullWord u).2.cpu.sp = s.cpu.sp := by
  rw [pushWord_eq] at sp page
  have cell (q : Byte) := page (0x100 + q.toNat) (by omega) (by have := q.isLt; omega)
  have low : u.cpu.sp + 1 = s.cpu.sp - 1 := by rw [sp]; bv_omega
  have high : u.cpu.sp + 2 = s.cpu.sp := by rw [sp]; bv_omega
  have apart : 0x100 + s.cpu.sp.toNat ≠ 0x100 + (s.cpu.sp - 1).toNat := by bv_omega
  rw [pullWord_eq, low, high, cell, cell, Store.read_write_same, Store.read_write_other _ _ apart, Store.read_write_same,
    addrOf_hiByte_loByte]
  exact ⟨rfl, rfl⟩

/-- Settles O39: RTS pulls the word that JSR pushed, `pullWord_pushWord`, and adds 1 to it. -/
theorem returnUndoesCall : Obligations.ReturnUndoesCall := by
  intro target s t u w call sp page ret
  cases call
  cases ret
  obtain ⟨word, restored⟩ : (pullWord (u.spend 6)).1 = s.cpu.pc - 1 ∧ (pullWord (u.spend 6)).2.cpu.sp = s.cpu.sp :=
    pullWord_pushWord (s := s.spend 6) sp page
  exact ⟨(congrArg (· + 1) word).trans (sub_add_cancel _ _), restored⟩

end Sys2Proof.Machine

namespace Sys2Proof

/-! PROOFS. The family 46_flags_system.md: BRK (O41), RTI (O42), the illegal opcodes (O44), the flag instructions and NOP (O40).

BRK and RTI are the entry and the return of every handler, by the laws of the stack (`enterInterrupt_eq`,
`returnFromInterrupt_eq`). An illegal opcode is `recordAnomaly`, then what the policy says. -/

/-! ### The listed bytes in the decoder's table (R119) -/

/-- `decodeBytes_illegal` for any bytes after the opcode: the instruction found there, written out and decoded again, is read from
its opcode alone. -/
theorem decodeBytes_of_listed {op : Byte} (listed : illegalOpcodes.contains op.toNat = true) (b1 b2 : Byte) :
    decodeBytes op b1 b2 = .illegal op := by
  have decoded := decode_of_opcode? (opcode?_decodeBytes op b1 b2) []
  rw [decode_of_length_one (opLength_illegal listed), decodeBytes_illegal listed] at decoded
  exact (Prod.mk.inj (Except.ok.inj decoded)).1.symm

end Sys2Proof

namespace Sys2Proof.Machine

/-! ### BRK and RTI (R275, R276) -/

/-- Settles O41: the encoding is a row of the decoder's table, and after 7 cycles BRK enters the handler at the IRQ vector,
`enterInterrupt_eq`. -/
theorem breakEntersTheIrqHandler : Obligations.BreakEntersTheIrqHandler :=
  ⟨fun _ _ => rfl,
    fun s => congrArg Host.Outcome.next (enterInterrupt_eq (s.cpu.pc + 1) true (by decide) (by decide) (s.spend 7))⟩

/-- Settles O42: the encoding is a row of the decoder's table, and after 6 cycles RTI leaves a handler, `returnFromInterrupt_eq`. -/
theorem returnFromInterruptRestores : Obligations.ReturnFromInterruptRestores :=
  ⟨fun _ _ => rfl, fun s => congrArg Host.Outcome.next (returnFromInterrupt_eq (s.spend 6))⟩

/-! ### Illegal opcodes (R280) -/

theorem illegalOpcode_of_nop1 {s : State} (h : s.cfg.illegalPolicy = .nop1) (op : Byte) :
    illegalOpcode op s = (recordAnomaly op s).spend 1 := by
  have policy : (recordAnomaly op s).cfg.illegalPolicy = .nop1 := h
  simp only [illegalOpcode, policy]

theorem illegalOpcode_of_fatal {s : State} (h : s.cfg.illegalPolicy = .fatal) (op : Byte) :
    illegalOpcode op s = (recordAnomaly op s).setCpu { (recordAnomaly op s).cpu with fault := true } := by
  have policy : (recordAnomaly op s).cfg.illegalPolicy = .fatal := h
  simp only [illegalOpcode, policy]

/-- Settles O44: the byte decodes by `decodeBytes_of_listed`, each policy has its next state, and the fault bit that `fatal` sets stops
the machine (O7). -/
theorem illegalOpcodePolicy : Obligations.IllegalOpcodePolicy := fun op b1 b2 _ listed =>
  ⟨decodeBytes_of_listed listed b1 b2, fun nop1 => congrArg Host.Outcome.next (illegalOpcode_of_nop1 nop1 op),
    fun fatal => ⟨congrArg Host.Outcome.next (illegalOpcode_of_fatal fatal op), faultedMachineStops _ rfl⟩⟩

/-! ### Flag instructions and NOP (R261 to R268) -/

/-- Settles O40: the encodings are rows of the decoder's table, a flag instruction is `writeFlag`, 2 cycles and one write of P, and NOP
is its 2 cycles. -/
theorem flagInstructionsAndNop : Obligations.FlagInstructionsAndNop :=
  ⟨fun _ _ => ⟨rfl, rfl, rfl, rfl, rfl, rfl, rfl, rfl⟩, fun _ => ⟨rfl, rfl, rfl, rfl, rfl, rfl, rfl, rfl⟩⟩

end Sys2Proof.Machine

namespace Sys2Proof.Machine

/-! PROOFS. The family 50_ppu_registers.md: the reads (O53) and the writes (O54) of the eight registers.

A register's read and write is said once, over the state before it; the bus router then adds its latch, at any mirror. -/

/-! ### The PPU memory by the address alone (20_memory.md R90 to R93) -/

/-- The nametable cell of an address of 0x2000..0x3EFF (R92). -/
def nametableCell (m : Mirroring) (n : Nat) : Nat :=
  (if m = .horizontal then n % 0x1000 / 0x800 else n % 0x800 / 0x400) * 0x400 + n % 0x400

/-- The palette entry of an address of 0x3F00..0x3FFF (R93). -/
def paletteEntry (n : Nat) : Nat := if n % 4 = 0 then n % 16 else n % 32

/-- The byte of the PPU memory at an address below the palette: CHR (R91), then the nametables (R92). -/
def State.vramCell (s : State) (n : Nat) : Byte :=
  if n ≤ 0x1FFF then (match s.cart.chr with | .rom bytes => bytes.read n | .none => s.chrRam.read n)
  else s.ppu.ciram.read (nametableCell s.cart.mirroring n)

theorem ntIndex_eq_nametableCell (m : Mirroring) {a : PpuAddr} (h : 0x2000 ≤ a.toNat) : ntIndex m a = nametableCell m a.toNat :=
  ntIndex_eq m a h

theorem palIndex_eq_paletteEntry (a : PpuAddr) : palIndex a = paletteEntry a.toNat := palIndex_eq a

theorem vramRead_eq_vramCell (s : State) (ob : Byte) {a : PpuAddr} (h : a.toNat < 0x3F00) :
    vramRead s.env s.ppu ob a = s.vramCell a.toNat := by
  rw [vramRead_eq _ _ _ _ h, State.vramCell]
  split
  · rfl
  · rw [ntIndex_eq_nametableCell _ (by omega)]; rfl

theorem vramRead_of_palette (e : PpuEnv) (p : Ppu) (ob : Byte) {a : PpuAddr} (h : 0x3F00 ≤ a.toNat) :
    vramRead e p ob a = ob.extractLsb' 6 2 ++ p.palette.read (paletteEntry a.toNat) := by
  rw [vramRead, if_neg (by omega), if_neg (by omega), Ppu.colour, palIndex_eq_paletteEntry]

/-! ### Reads (R306, R309, R313, R320, R322) -/

/-- The five registers with no value of their own read as open bus (R320). -/
theorem ppuRegRead_of_writeOnly {n : Nat} (h : n ∈ [0, 1, 3, 5, 6]) (s : State) :
    ppuRegRead (PpuReg.ofSelect n) s =
      (Config.openBus s.draws,
        { s with ppu := { s.ppu with ioLatch := Config.openBus s.draws }, draws := s.draws + 1 }) := by
  simp only [List.mem_cons, List.not_mem_nil, or_false] at h
  rcases h with rfl | rfl | rfl | rfl | rfl <;> rfl

theorem ppuRegRead_status (s : State) :
    ppuRegRead .status s =
      ((statusRead s).1,
        { s with ppu := { s.ppu with vblank := false, w := false, ioLatch := (statusRead s).1 }, draws := s.draws + 1 }) := rfl

theorem ppuRegRead_oamData (s : State) :
    ppuRegRead .oamData s = (oamDataRead s.ppu, { s with ppu := { s.ppu with ioLatch := oamDataRead s.ppu } }) := rfl

/-- Below the palette Data answers its buffer and refills it from the address itself (R313). -/
theorem dataRead_of_lt {s : State} (h : s.ppu.dataAddr.toNat < 0x3F00) :
    dataRead s =
      (s.ppu.readBuffer,
        { s with ppu := { s.ppu with readBuffer := s.vramCell s.ppu.dataAddr.toNat, v := s.ppu.increment.v } }) := by
  rw [dataRead, if_pos h, vramRead_eq_vramCell s 0 h]
  rfl

/-- In the palette Data answers the entry at once and refills its buffer from 0x1000 below (R313). -/
theorem dataRead_of_ge {s : State} (h : 0x3F00 ≤ s.ppu.dataAddr.toNat) :
    dataRead s =
      ((Config.openBus s.draws).extractLsb' 6 2 ++ s.ppu.palette.read (paletteEntry s.ppu.dataAddr.toNat),
        { s with
          ppu := { s.ppu with readBuffer := s.vramCell (s.ppu.dataAddr.toNat - 0x1000), v := s.ppu.increment.v }
          draws := s.draws + 1 }) := by
  have below : (s.ppu.dataAddr - 0x1000).toNat = s.ppu.dataAddr.toNat - 0x1000 := by bv_omega
  rw [dataRead, if_neg (Nat.not_lt.mpr h), ← below, ← vramRead_eq_vramCell s 0 (by omega),
    ← vramRead_of_palette s.env s.ppu (Config.openBus s.draws) h]
  rfl

theorem ppuRegRead_data {s : State} {b : Byte} {p : Ppu} {n : Nat} (h : dataRead s = (b, { s with ppu := p, draws := n })) :
    ppuRegRead .data s = (b, { s with ppu := { p with ioLatch := b }, draws := n }) := by
  rw [ppuRegRead, ppuRegValue, h]
  rfl

/-- `ppuRegRead_effect`, sharpened: a register read leaves everything outside the PPU but the count of free values. -/
theorem ppuRegRead_frame (r : PpuReg) (s : State) :
    ppuRegRead r s =
      ((ppuRegRead r s).1, { s with ppu := (ppuRegRead r s).2.ppu, draws := (ppuRegRead r s).2.draws }) := by
  cases r
  case data =>
    rcases Nat.lt_or_ge s.ppu.dataAddr.toNat 0x3F00 with h | h
    · rw [ppuRegRead_data (dataRead_of_lt h)]
    · rw [ppuRegRead_data (dataRead_of_ge h)]
  all_goals rfl

/-- A bus read at any mirror of a register (R75, R322): what the register's read does, and the bus latch. -/
theorem memRead_of_ppuRegRead {a : Addr} {s : State} {r : PpuReg} {b : Byte} {p : Ppu} {n : Nat} (lo : 0x2000 ≤ a.toNat)
    (hi : a.toNat ≤ 0x3FFF) (sel : PpuReg.ofSelect (a.toNat % 8) = r)
    (read : ppuRegRead r s = (b, { s with ppu := p, draws := n })) :
    memRead a s = (b, { s with ppu := p, draws := n, io := { s.io with cpuBusLatch := b } }) := by
  rw [memRead, route_ppu lo hi, sel, ownerRead, read]
  rfl

/-- Settles O53: the frame is `ppuRegRead_frame`, and each clause the read of the register that its select names. -/
theorem ppuRegisterReads : Obligations.PpuRegisterReads := by
  intro a s lo hi
  refine ⟨?frame, fun sel => ?writeOnly, fun sel => ?status, fun sel => ?oamData, fun sel below => ?buffered,
    fun sel palette => ?palette⟩
  case frame => rw [memRead_of_ppuRegRead lo hi rfl (ppuRegRead_frame _ s)]
  case writeOnly =>
    rw [memRead_of_ppuRegRead lo hi rfl (ppuRegRead_of_writeOnly sel s)]
    exact ⟨rfl, rfl, rfl⟩
  case status =>
    rw [memRead_of_ppuRegRead lo hi (congrArg PpuReg.ofSelect sel) (ppuRegRead_status s)]
    exact ⟨rfl, rfl, rfl⟩
  case oamData =>
    rw [memRead_of_ppuRegRead lo hi (congrArg PpuReg.ofSelect sel) (ppuRegRead_oamData s)]
    exact ⟨rfl, rfl, rfl⟩
  case buffered =>
    rw [memRead_of_ppuRegRead lo hi (congrArg PpuReg.ofSelect sel) (ppuRegRead_data (dataRead_of_lt below))]
    exact ⟨rfl, rfl, rfl⟩
  case palette =>
    rw [memRead_of_ppuRegRead lo hi (congrArg PpuReg.ofSelect sel) (ppuRegRead_data (dataRead_of_ge palette))]
    dsimp only -- apply the record update first: `rfl` alone would unfold the subtraction of 0x1000
    exact ⟨rfl, rfl, rfl⟩

/-! ### Where a write of the PPU memory lands (20_memory.md R90 to R93) -/

/-- A write of the PPU memory reaches CHR RAM and, in the PPU, the nametables and the palette. -/
theorem vramWrite_frame (a : PpuAddr) (d : Byte) (s : State) :
    vramWrite a d s =
      { s with
        chrRam := (vramWrite a d s).chrRam
        ppu := { s.ppu with ciram := (vramWrite a d s).ppu.ciram, palette := (vramWrite a d s).ppu.palette } } := by
  simp only [vramWrite]
  split
  · split <;> rfl
  · split <;> rfl

theorem vramWrite_chrRam_read (a : PpuAddr) (d : Byte) (s : State) (k : Nat) :
    (vramWrite a d s).chrRam.read k =
      if a.toNat ≤ 0x1FFF ∧ s.cart.chr = .none ∧ k = a.toNat then d else s.chrRam.read k := by
  by_cases chr : a.toNat ≤ 0x1FFF
  · cases hc : s.cart.chr with
    | rom bytes => simp [vramWrite, chr, hc]
    | none => simp [vramWrite, chr, hc, Store.read_write]
  · rw [vramWrite, if_neg chr, if_neg (c := _ ∧ _) (fun h => chr h.1)]
    split <;> rfl

theorem vramWrite_ciram_read (a : PpuAddr) (d : Byte) (s : State) (k : Nat) :
    (vramWrite a d s).ppu.ciram.read k =
      if 0x2000 ≤ a.toNat ∧ a.toNat ≤ 0x3EFF ∧ k = nametableCell s.cart.mirroring a.toNat then d else s.ppu.ciram.read k := by
  by_cases chr : a.toNat ≤ 0x1FFF
  · rw [vramWrite, if_pos chr, if_neg (by omega)]
    split <;> rfl
  · by_cases nametable : a.toNat ≤ 0x3EFF
    · simp [vramWrite, chr, nametable, Store.read_write, ntIndex_eq_nametableCell, show 0x2000 ≤ a.toNat by omega]
    · rw [vramWrite, if_neg chr, if_neg nametable, if_neg (by omega)]
      rfl

theorem vramWrite_palette_read (a : PpuAddr) (d : Byte) (s : State) (k : Nat) :
    (vramWrite a d s).ppu.palette.read k =
      if 0x3F00 ≤ a.toNat ∧ k = paletteEntry a.toNat then d.extractLsb' 0 6 else s.ppu.palette.read k := by
  by_cases chr : a.toNat ≤ 0x1FFF
  · rw [vramWrite, if_pos chr, if_neg (by omega)]
    split <;> rfl
  · by_cases nametable : a.toNat ≤ 0x3EFF
    · rw [vramWrite, if_neg chr, if_pos nametable, if_neg (by omega)]
      rfl
    · simp [vramWrite, chr, nametable, Store.read_write, palIndex_eq_paletteEntry, show 0x3F00 ≤ a.toNat by omega]

/-! ### Writes (R301, R311, R312, R314, R321) -/

theorem ctrlWrite_eq (cfg : Params) (d : Byte) (p : Ppu) :
    ctrlWrite cfg d p =
      { p with
        ctrl := d
        nmiRequest := p.nmiRequest || (cfg.nmiOnCtrlEnable && !p.ctrl.getLsbD 7 && d.getLsbD 7 && p.vblank)
        t := p.t.extractLsb' 12 3 ++ d.extractLsb' 0 2 ++ p.t.extractLsb' 0 10 } := by
  rw [ctrlWrite, putBits_nametable]

theorem scrollWrite_first (d : Byte) {p : Ppu} (h : p.w = false) :
    scrollWrite d p = { p with t := p.t.extractLsb' 5 10 ++ d.extractLsb' 3 5, x := d.extractLsb' 0 3, w := true } := by
  simp only [scrollWrite, h, Bool.false_eq_true, if_false, putBits_coarseX]

theorem scrollWrite_second (d : Byte) {p : Ppu} (h : p.w = true) :
    scrollWrite d p =
      { p with
        t := d.extractLsb' 0 3 ++ p.t.extractLsb' 10 2 ++ d.extractLsb' 3 5 ++ p.t.extractLsb' 0 5, w := false } := by
  simp only [scrollWrite, h, if_true, putBits_scrollY]

theorem addrWrite_first (d : Byte) {p : Ppu} (h : p.w = false) :
    addrWrite d p = { p with t := 0#1 ++ d.extractLsb' 0 6 ++ p.t.extractLsb' 0 8, w := true } := by
  simp only [addrWrite, h, Bool.false_eq_true, if_false, putBits_addressHigh]

theorem addrWrite_second (d : Byte) {p : Ppu} (h : p.w = true) :
    addrWrite d p = { p with t := p.t.extractLsb' 8 7 ++ d, v := p.t.extractLsb' 8 7 ++ d, w := false } := by
  simp only [addrWrite, h, if_true, putBits_addressLow]

/-- Of the PPU, a Data write changes the cell it stores and moves `v` on (R314, R315). -/
theorem dataWrite_ppu (d : Byte) (s : State) :
    (dataWrite d s).ppu =
      { s.ppu with
        v := s.ppu.increment.v, ciram := (dataWrite d s).ppu.ciram, palette := (dataWrite d s).ppu.palette } := by
  rw [dataWrite, vramWrite_frame]
  rfl

/-- `ppuRegWrite_effect`, sharpened: a register write leaves everything outside the PPU but CHR RAM. -/
theorem ppuRegWrite_frame (r : PpuReg) (d : Byte) (s : State) :
    ppuRegWrite r d s = { s with ppu := (ppuRegWrite r d s).ppu, chrRam := (ppuRegWrite r d s).chrRam } := by
  cases r
  case data => simp only [ppuRegWrite, dataWrite]; rw [vramWrite_frame]; rfl
  all_goals rfl

/-- A bus write at any mirror of a register (R75, R321): what the register's write does, and the bus latch. -/
theorem memWrite_ppuReg {a : Addr} {r : PpuReg} (lo : 0x2000 ≤ a.toNat) (hi : a.toNat ≤ 0x3FFF)
    (sel : PpuReg.ofSelect (a.toNat % 8) = r) (d : Byte) (s : State) :
    memWrite a d s = (ppuRegWrite r d s).setLatch d := by
  rw [memWrite, route_ppu lo hi, sel, ownerWrite]

/-- Settles O54: the frame is `ppuRegWrite_frame`, each clause the write of the register that its select names, and the cells that
Data stores are those of the three `vramWrite` laws. -/
theorem ppuRegisterWrites : Obligations.PpuRegisterWrites := by
  intro a d s lo hi
  have write {n : Nat} (sel : a.toNat % 8 = n) := memWrite_ppuReg lo hi (congrArg PpuReg.ofSelect sel) d s
  refine ⟨?frame, fun sel => ?control, fun sel => ?mask, fun sel => ?status, fun sel => ?oamAddr, fun sel => ?oamData,
    fun sel w => ?scroll1, fun sel w => ?scroll2, fun sel w => ?address1, fun sel w => ?address2, fun sel => ?data,
    fun sel => ?chrRam⟩
  case frame => rw [write rfl, ppuRegWrite_frame]; rfl
  case control => rw [write sel]; exact ctrlWrite_eq _ _ _
  case mask | status | oamAddr | oamData => rw [write sel]; rfl
  case scroll1 => rw [write sel]; exact scrollWrite_first d w
  case scroll2 => rw [write sel]; exact scrollWrite_second d w
  case address1 => rw [write sel]; exact addrWrite_first d w
  case address2 => rw [write sel]; exact addrWrite_second d w
  case data =>
    rw [write sel]
    exact ⟨dataWrite_ppu d _, vramWrite_chrRam_read _ d _, vramWrite_ciram_read _ d _, vramWrite_palette_read _ d _⟩
  case chrRam =>
    obtain ⟨-, isData⟩ := ofSelect_eq (Nat.mod_lt a.toNat (show 8 > 0 by decide))
    obtain ⟨-, -, -, notData⟩ := ppuRegWrite_memories (PpuReg.ofSelect (a.toNat % 8)) d s
    rw [write rfl]
    exact (notData (mt isData.mp sel)).1

end Sys2Proof.Machine

namespace Sys2Proof.Machine

/-! PROOFS. The family 60_exceptions.md: every unfaulted machine steps (O6), the interrupt frame (O11), NMI (O12) and IRQ (O13), and
RTI as the inverse of an interrupt entry (O43).

A step is a CPU step and then the rest of the iteration (`step_of_cpuStep`); which of the four things a CPU step does is
`stepKind`, the priority of R465. -/

/-! ### The step by its kind (R464, R465) -/

theorem step_of_cpuStep {s t : State} {c : Nat} (unfaulted : s.cpu.fault = false) (h : cpuStep s = .next (t, c)) :
    step s = .next (afterCpu c t) := by
  simp only [step, iterate, unfaulted, h, Bool.false_eq_true, if_false]

theorem cpuStep_of_reset {s : State} (h : stepKind s.cpu = .reset) : cpuStep s = .next (resetAction s, 0) := by
  simp only [cpuStep, h]

theorem cpuStep_of_nmi {s : State} (h : stepKind s.cpu = .nmi) : cpuStep s = .next (serviceNmi s, 7) := by
  simp only [cpuStep, h]

theorem cpuStep_of_irq {s : State} (h : stepKind s.cpu = .irq) : cpuStep s = .next (serviceIrq s, 7) := by
  simp only [cpuStep, h]

/-- The instruction fetched answers a next state (`exec_effect`), so the CPU step does. -/
theorem cpuStep_of_instruction {s : State} (h : stepKind s.cpu = .instruction) :
    ∃ u, exec (fetchInstr s).1 (fetchInstr s).2 = .next u ∧
      cpuStep s = .next (settleStall u, (settleStall u).cpu.cycles - s.cpu.cycles) := by
  obtain ⟨u, ran, -⟩ := exec_effect (fetchInstr s).1 (fetchInstr s).2
  exact ⟨u, ran, by simp only [cpuStep, h, ran]⟩

theorem cpuStep_next (s : State) : ∃ t c, cpuStep s = .next (t, c) := by
  cases h : stepKind s.cpu with
  | reset => exact ⟨_, _, cpuStep_of_reset h⟩
  | nmi => exact ⟨_, _, cpuStep_of_nmi h⟩
  | irq => exact ⟨_, _, cpuStep_of_irq h⟩
  | instruction =>
    obtain ⟨u, -, ran⟩ := cpuStep_of_instruction h
    exact ⟨_, _, ran⟩

/-- Settles O6: the CPU step answers a next state, whatever its kind. -/
theorem stepAnswersUnlessFaulted : Obligations.StepAnswersUnlessFaulted := by
  intro s unfaulted
  obtain ⟨t, c, ran⟩ := cpuStep_next s
  exact ⟨_, step_of_cpuStep unfaulted ran⟩

theorem stepKind_of_nmi {c : Cpu} (reset : c.resetPending = false) (nmi : c.nmiPending = true) : stepKind c = .nmi := by
  simp [stepKind, reset, nmi]

/-- With no reset and no NMI pending, a pending IRQ is served or held off by I (R462). -/
theorem stepKind_of_irq {c : Cpu} (reset : c.resetPending = false) (nmi : c.nmiPending = false) (irq : c.irqPending = true) :
    stepKind c = if c.p.i then .instruction else .irq := by
  cases i : c.p.i
  all_goals simp [stepKind, reset, nmi, irq, i]

/-- Settles O12: a pending NMI decides the kind of the step before I and the IRQ are looked at. -/
theorem nmiIsServicedUnconditionally : Obligations.NmiIsServicedUnconditionally := fun _ unfaulted reset nmi =>
  step_of_cpuStep unfaulted (cpuStep_of_nmi (stepKind_of_nmi reset nmi))

/-- Settles O13: I decides the kind of the step. -/
theorem irqIsServicedWhenEnabled : Obligations.IrqIsServicedWhenEnabled := by
  intro s unfaulted reset nmi irq
  have kind := stepKind_of_irq reset nmi irq
  refine ⟨fun enabled => ?served, fun masked => ⟨unfaulted, ?held⟩⟩
  case served =>
    rw [enabled, if_neg Bool.false_ne_true] at kind
    exact step_of_cpuStep unfaulted (cpuStep_of_irq kind)
  case held => rw [kind, masked, if_pos rfl]

/-! ### The interrupt frame (R463) and its return (R467) -/

/-- The three stack cells of an entry are three cells. -/
theorem stackCells_apart (sp : Byte) :
    0x100 + (sp - 1).toNat ≠ 0x100 + sp.toNat ∧ 0x100 + (sp - 2).toNat ≠ 0x100 + sp.toNat ∧
    0x100 + (sp - 2).toNat ≠ 0x100 + (sp - 1).toNat := by
  refine ⟨?_, ?_, ?_⟩ <;> bv_omega

/-- What an entry leaves in the stack: the return address and the status in the three cells from that of SP down, and every other
cell as it was. -/
theorem enterInterrupt_frame (ret : Addr) (brk : Bool) {vector : Addr} (h : vector = 0xFFFA ∨ vector = 0xFFFE) (s : State) :
    let m := (enterInterrupt ret brk vector s).ram
    m.read (0x100 + s.cpu.sp.toNat) = hiByte ret ∧ m.read (0x100 + (s.cpu.sp - 1).toNat) = loByte ret ∧
    m.read (0x100 + (s.cpu.sp - 2).toNat) = s.cpu.p.pushByte brk ∧
    ∀ k, k ≠ 0x100 + s.cpu.sp.toNat → k ≠ 0x100 + (s.cpu.sp - 1).toNat → k ≠ 0x100 + (s.cpu.sp - 2).toNat →
      m.read k = s.ram.read k := by
  obtain ⟨lo, hi⟩ := vector_bounds h
  obtain ⟨second, third, third'⟩ := stackCells_apart s.cpu.sp
  simp only [enterInterrupt_eq ret brk lo hi s]
  refine ⟨?_, ?_, Store.read_write_same _ _ _, fun k h0 h1 h2 => ?_⟩
  · rw [Store.read_write_other _ _ third.symm, Store.read_write_other _ _ second.symm, Store.read_write_same]
  · rw [Store.read_write_other _ _ third'.symm, Store.read_write_same]
  · rw [Store.read_write_other _ _ h2, Store.read_write_other _ _ h1, Store.read_write_other _ _ h0]

/-- Settles O11: the stack by `enterInterrupt_frame`, the rest by `enterInterrupt_eq`. -/
theorem interruptServiceBuildsTheFrame : Obligations.InterruptServiceBuildsTheFrame := by
  intro vector s h
  obtain ⟨lo, hi⟩ := vector_bounds h
  obtain ⟨high, low, status, others⟩ := enterInterrupt_frame s.cpu.pc false h s
  refine ⟨high, low, status, others, ?cpu, ?rest⟩
  case cpu => rw [serviceInterrupt, enterInterrupt_eq _ _ lo hi]
  case rest => rw [serviceInterrupt, enterInterrupt_eq _ _ lo hi]

/-- The bits of a byte put together from eight flags. -/
theorem getLsbD_ofBools : ∀ n v u brk d i z c : Bool,
    let w : Byte := BitVec.ofBool n ++ BitVec.ofBool v ++ BitVec.ofBool u ++ BitVec.ofBool brk ++
      BitVec.ofBool d ++ BitVec.ofBool i ++ BitVec.ofBool z ++ BitVec.ofBool c
    w.getLsbD 7 = n ∧ w.getLsbD 6 = v ∧ w.getLsbD 3 = d ∧ w.getLsbD 2 = i ∧ w.getLsbD 1 = z ∧ w.getLsbD 0 = c := by
  decide

/-- A status byte pulled gives back the six flags that it was pushed with, whatever its bit 4; B and U stay (R467). -/
theorem restore_pushByte (p q : Flags) (brk : Bool) : q.restore (p.pushByte brk) = { p with b := q.b, u := q.u } := by
  obtain ⟨n, v, d, i, z, c⟩ := getLsbD_ofBools p.n p.v p.u brk p.d p.i p.z p.c
  rw [Flags.restore, Flags.pushByte, n, v, d, i, z, c]

/-- Settles O43: RTI pulls the three cells that the entry pushed (`enterInterrupt_frame`). -/
theorem returnUndoesInterrupt : Obligations.ReturnUndoesInterrupt := by
  intro ret vector brk s u w h sp page ran
  obtain ⟨lo, hi⟩ := vector_bounds h
  obtain ⟨high, low, status, -⟩ := enterInterrupt_frame ret brk h s
  have cell (q : Byte) := page (0x100 + q.toNat) (by omega) (by have := q.isLt; omega)
  have entered : u.cpu.sp = s.cpu.sp - 3 := by rw [sp, enterInterrupt_eq _ _ lo hi]
  have sp1 : u.cpu.sp + 1 = s.cpu.sp - 2 := by rw [entered]; bv_omega
  have sp2 : u.cpu.sp + 2 = s.cpu.sp - 1 := by rw [entered]; bv_omega
  have sp3 : u.cpu.sp + 3 = s.cpu.sp := by rw [entered]; bv_omega
  cases ran
  rw [returnFromInterrupt_eq]
  refine ⟨?pc, sp3, ?flags⟩
  case pc => simp only [State.spend_cpu_sp, State.spend_ram, sp3, sp2, cell, high, low, addrOf_hiByte_loByte]
  case flags => simp only [State.spend_cpu_sp, State.spend_cpu_p, State.spend_ram, sp1, cell, status, restore_pushByte]

end Sys2Proof.Machine

namespace Sys2Proof.Machine

/-! PROOFS. The family 70_reset_and_hazards.md: launch (O10), the state after reset (O9) and the host reset (O14). -/

theorem hostReset_eq (s : State) :
    hostReset s =
      { s with
        cpu := { s.cpu with resetPending := true }, ppu := ppuReset s.ppu, io := { s.io with strobe := false } } := rfl

/-- Settles O14: `hostReset` is the record it writes, and the step is the CPU step of a reset, `resetAction_eq`. -/
theorem resetIsServedFirst : Obligations.ResetIsServedFirst := by
  refine ⟨hostReset_eq, fun s unfaulted reset => ?step⟩
  rw [step_of_cpuStep unfaulted (cpuStep_of_reset ((stepKind_reset_iff _).2 reset)), resetAction_eq]

/-- The launch, whole: the resets find every field they write at its reset value, but for PC (R491). -/
theorem launch_eq (cart : Cartridge) (cfg : Params) (dr : LaunchDraws) :
    launch cart cfg dr =
      (powerOn cart cfg dr).setPc (addrOf (cart.prgByte 0xFFFD) (cart.prgByte 0xFFFC)) := by
  rw [launch, resetAction_eq]
  rfl

/-- A launch has the invariant where the cartridge, the parameters and the drawn memories have their sizes. -/
theorem launch_inv {cart : Cartridge} {cfg : Params} {dr : LaunchDraws} (hcart : cart.Kept) (hcfg : cfg.wf)
    (hram : dr.ram.fits 2048) (hchrRam : dr.chrRam.fits 8192) (hoam : dr.oam.fits 256) (hciram : dr.ciram.fits 2048)
    (hpalette : dr.palette.fits 32) : Inv (launch cart cfg dr) := by
  rw [launch_eq]
  exact
    { cpu := ⟨rfl, rfl⟩
      ppu := ⟨Nat.zero_le _, Nat.zero_le _, Nat.zero_le _, nofun, hoam, hciram, hpalette, Store.fits_nil _, Store.fits_nil _⟩
      ram := hram
      chrRam := hchrRam
      cart := hcart
      cfg := hcfg }

/-- Settles O10: the invariant is `launch_inv`, and the values are those of `launch_eq`. -/
theorem launchHasInvariantAndLaunchValues : Obligations.LaunchHasInvariantAndLaunchValues := by
  intro cart cfg dr hcart hcfg hram hchrRam hoam hciram hpalette
  refine ⟨launch_inv hcart hcfg hram hchrRam hoam hciram hpalette, ?values⟩
  rw [launch_eq]
  exact ⟨rfl, rfl, rfl, rfl, rfl, rfl, rfl, rfl⟩

theorem reset_eq_launch : State.reset = launch Cartridge.blank Params.default LaunchDraws.zero := by
  rw [launch_eq]
  rfl

/-- Settles O9: the reset state is a launch (`reset_eq_launch`), so it has the invariant by `launch_inv`. -/
theorem resetHasInvariant : Obligations.ResetHasInvariant := by
  refine ⟨?inv, reset_eq_launch⟩
  rw [reset_eq_launch]
  exact launch_inv ⟨Store.fits_nil _, nofun⟩ ⟨by decide, by decide⟩ (Store.fits_nil _) (Store.fits_nil _) (Store.fits_nil _)
    (Store.fits_nil _) (Store.fits_nil _)

end Sys2Proof.Machine

namespace Sys2Proof.Machine

/-! PROOFS. The family 53_synchronizer.md: what follows the CPU step (O15) and the cycles that a CPU step returns (O18). -/

/-! ### After the CPU step (R430 to R434) -/

/-- The hand-off, whole: what it writes it writes when a frame is complete, and then takes one free value (R434). -/
theorem handOff_eq (s : State) :
    handOff s =
      { s with
        ppu := { s.ppu with frameReady := false }
        io := { s.io with
          buttons1 := if s.ppu.frameReady then (Config.pollInput s.draws).1 else s.io.buttons1
          buttons2 := if s.ppu.frameReady then (Config.pollInput s.draws).2 else s.io.buttons2 }
        frames := if s.ppu.frameReady then s.frames + 1 else s.frames
        draws := if s.ppu.frameReady then s.draws + 1 else s.draws
        out := { s.out with presented := if s.ppu.frameReady then s.ppu.fbOut :: s.out.presented else s.out.presented } } := by
  rw [handOff]
  cases ready : s.ppu.frameReady
  case true => rfl
  case false =>
    have same : { s.ppu with frameReady := false } = s.ppu := by rw [← ready]
    simp only [Bool.false_eq_true, if_false, same]

/-- Settles O15: the hand-off is `handOff_eq`, the NMI delivery `deliverNmi_eq`, and the dots and the IRQ sample write one part of the
state each. -/
theorem iterationAfterTheCpuStep : Obligations.IterationAfterTheCpuStep := by
  intro c s
  rw [afterCpu, deliverNmi_eq, handOff_eq]
  exact ⟨rfl, rfl, rfl, rfl, rfl, rfl, rfl, rfl, rfl⟩

/-! ### The cycles of a CPU step (30_encoding.md R117, R118) -/

/-- What an instruction that has counted `n` cycles makes of the counter and the stall: the stall stays or is that of a DMA, which
takes a write at 0x4014 and so an instruction of at least 4 cycles. -/
structure Counts (n : Nat) (s t : State) : Prop where
  cycles : t.cpu.cycles = s.cpu.cycles + n := by exact rfl
  stall  : t.cpu.dmaStall = s.cpu.dmaStall ∨ 4 ≤ n ∧ (t.cpu.dmaStall = 513 ∨ t.cpu.dmaStall = 514) := by exact .inl rfl

/-- Only in page 0 does a store take 3 cycles, and 0x4014 is not in page 0. -/
theorem four_le_storeCycles {m : EaMode} {s : State} (h : (resolve m s).1.ea = 0x4014) : 4 ≤ storeCycles m := by
  cases m
  case zp zz =>
    have ea : (zeroPage zz).toNat = 0x4014 := congrArg BitVec.toNat h
    have := zz.isLt
    simp only [zeroPage, BitVec.toNat_setWidth] at ea
    omega
  all_goals simp [storeCycles]

theorem storeCycles_le (m : EaMode) : storeCycles m ≤ 6 := by cases m <;> simp [storeCycles]

theorem modifyCycles_le {m : EaMode} (h : m.modifyForm = true) : modifyCycles m ≤ 7 := by
  cases m <;> simp_all [EaMode.modifyForm, modifyCycles, storeCycles]

/-- A bus write at the address of `m` once `n` cycles are counted, as many as a store of that mode or more. -/
theorem Counts.write {m : EaMode} {n : Nat} {s u : State} (enough : storeCycles m ≤ n) (cpu : u.cpu = (s.spend n).cpu) (v : Byte) :
    Counts n s (memWrite (resolve m s).1.ea v u) := by
  rcases memWrite_cpu (resolve m s).1.ea v u with same | ⟨dma, stall⟩
  · exact { cycles := by rw [same, cpu]; rfl, stall := .inl (by rw [same, cpu]; rfl) }
  · have four := (four_le_storeCycles dma).trans enough
    rcases stall with stall | stall
    · exact { cycles := by rw [stall, cpu]; rfl, stall := .inr ⟨four, .inl (by rw [stall])⟩ }
    · exact { cycles := by rw [stall, cpu]; rfl, stall := .inr ⟨four, .inr (by rw [stall])⟩ }

theorem Counts.store (m : EaMode) (v : Byte) (s : State) : Counts (storeCycles m) s (storeMem m v s) :=
  .write (Nat.le_refl _) (congrArg (fun c : Cpu => { c with cycles := c.cycles + storeCycles m }) (resolve_cpu m s)) v

theorem Counts.modify (m : EaMode) (f : Byte → Flags → Byte × Flags) (s : State) :
    Counts (modifyCycles m) s (modifyMem m f s) := by
  rw [modifyMem_eq]
  obtain ⟨cycles, stall⟩ := Counts.write (Nat.le_add_right _ 2) (modifyRead_effect m s).cpu _
  exact ⟨cycles, stall⟩

/-- A reading instruction counts its operand read. -/
theorem Counts.read {o : ReadOperand} {i : Instr} {s t : State} (hi : ReadsOperand o i) (h : exec i s = .next t) :
    Counts (operandCycles o s) s t := by
  obtain ⟨d, rfl, into⟩ := exec_reads hi h
  have cpu := into.eq
  rw [readOperand_cpu] at cpu
  exact { cycles := by rw [State.setCpu_cpu, cpu], stall := .inl (by rw [State.setCpu_cpu, cpu]) }

/-- A well-formed instruction counts at most 7 cycles, by the operation that counts them. -/
theorem exec_counts {i : Instr} {s t : State} (wellFormed : i.wellFormed = true) (h : exec i s = .next t) :
    ∃ n, n ≤ 7 ∧ Counts n s t := by
  cases i
  case lda o | ldx o | ldy o | adc o | sbc o | cmp o | cpx o | cpy o | and o | ora o | eor o =>
    exact ⟨_, (operandCycles_bounds o s).2.trans (by decide), .read (.inl (by simp)) h⟩
  case bit m => exact ⟨_, (operandCycles_bounds (.mem m) s).2.trans (by decide), .read (.inr ⟨m, rfl, rfl⟩) h⟩
  case sta m | stx m | sty m =>
    cases h
    exact ⟨_, (storeCycles_le m).trans (by decide), .store m _ s⟩
  case inc m | dec m =>
    cases h
    exact ⟨_, modifyCycles_le wellFormed, .modify m _ s⟩
  case asl o | lsr o | rol o | ror o =>
    cases h
    cases o with
    | acc => exact ⟨2, by decide, {}⟩
    | mem m => exact ⟨_, modifyCycles_le wellFormed, .modify m _ s⟩
  case bcc oo | bcs oo | beq oo | bmi oo | bne oo | bpl oo | bvc oo | bvs oo =>
    cases h
    obtain ⟨n, -, hn, taken⟩ := branch_effect _ oo s
    rw [taken]
    exact ⟨n, hn.trans (by decide), {}⟩
  case php | pha =>
    cases h
    rw [push_eq]
    exact ⟨3, by decide, {}⟩
  case pla =>
    cases h
    rw [pullA, pull_eq]
    exact ⟨4, by decide, {}⟩
  case plp =>
    cases h
    rw [pullP, pull_eq]
    exact ⟨4, by decide, {}⟩
  case jsr target =>
    cases h
    rw [callSubroutine, pushWord_eq]
    exact ⟨6, by decide, {}⟩
  case rts =>
    cases h
    rw [returnFromSubroutine, pullWord_eq]
    exact ⟨6, by decide, {}⟩
  case brk =>
    cases h
    rw [breakInterrupt, enterInterrupt_eq _ _ (by decide) (by decide)]
    exact ⟨7, by decide, {}⟩
  case rti =>
    cases h
    rw [returnFromInterrupt_eq]
    exact ⟨6, by decide, {}⟩
  case jmpInd pointer =>
    cases h
    have read := (read16InPage_effect (hiByte pointer) (loByte pointer) (s.spend 5)).cpu
    exact ⟨5, by decide, { cycles := congrArg Cpu.cycles read, stall := .inl (jumpThrough_frame pointer s).stall }⟩
  case illegal op =>
    cases h
    cases policy : s.cfg.illegalPolicy with
    | nop1 => rw [illegalOpcode_of_nop1 policy]; exact ⟨1, by decide, {}⟩
    | fatal => rw [illegalOpcode_of_fatal policy]; exact ⟨0, by decide, {}⟩
  case jmp target =>
    cases h
    exact ⟨3, by decide, {}⟩
  all_goals
    cases h
    exact ⟨2, by decide, {}⟩

/-- What a fetch answers is an entry of the decoder's table. -/
theorem fetchInstr_wellFormed (s : State) : (fetchInstr s).1.wellFormed = true := by
  refine Instr.wellFormed_iff.2 ⟨(fetchByte s).1, ?_⟩
  simp only [fetchInstr]
  split
  all_goals exact opcode?_decodeBytes _ _ _

/-- Settles O18: a reset and the two interrupt services by their definitions, an instruction by `exec_counts`, with the stall added. -/
theorem cycleCountOfAStep : Obligations.CycleCountOfAStep := by
  intro s t c noStall ran
  cases kind : stepKind s.cpu with
  | reset =>
    cases (cpuStep_of_reset kind).symm.trans ran
    exact .inl (by decide)
  | nmi =>
    cases (cpuStep_of_nmi kind).symm.trans ran
    exact .inl (by decide)
  | irq =>
    cases (cpuStep_of_irq kind).symm.trans ran
    exact .inl (by decide)
  | instruction =>
    obtain ⟨u, executed, ran'⟩ := cpuStep_of_instruction kind
    cases ran'.symm.trans ran
    obtain ⟨n, atMost, cycles, stall⟩ := exec_counts (fetchInstr_wellFormed s) executed
    obtain ⟨pc, fetched⟩ := fetchInstr_cpu s
    have total : (settleStall u).cpu.cycles = s.cpu.cycles + n + u.cpu.dmaStall :=
      congrArg (· + u.cpu.dmaStall) (cycles.trans (by rw [fetched]))
    rw [fetched, noStall] at stall
    omega

end Sys2Proof.Machine

namespace Sys2Proof.Machine

/-! PROOFS. The family 52_io_dma_controllers.md: OAM DMA (O52) and the controller ports with the rest of their window (O55). -/

/-! ### OAM DMA (R402, R403) -/

/-- The write that starts a DMA: the copy, the stall of `dmaCycles` after it, and the bus latch. -/
theorem memWrite_oamDma (d : Byte) (s : State) :
    memWrite 0x4014 d s =
      { oamDmaCopy d 256 0 s with
        cpu := { s.cpu with dmaStall := (dmaCycles (oamDmaCopy d 256 0 s)).1 }
        draws := (dmaCycles (oamDmaCopy d 256 0 s)).2.draws
        io := { (oamDmaCopy d 256 0 s).io with cpuBusLatch := d } } := by
  obtain ⟨cpu, -⟩ := oamDmaCopy_frame d 256 0 s
  rw [memWrite, route_io (by decide) (by decide), ownerWrite, ioWrite, if_pos rfl, oamDma]
  generalize oamDmaCopy d 256 0 s = u at cpu ⊢
  rw [dmaCycles_state, ← cpu]
  rfl

theorem dmaCycles_of_parity {s : State} (h : s.cfg.dmaCycles = .parity) : dmaCycles s = (513 + s.cpu.cycles % 2, s) := by
  simp only [dmaCycles, h]

theorem dmaCycles_of_draw {s : State} (h : s.cfg.dmaCycles = .draw) :
    dmaCycles s = (513 + (Config.dmaExtraCycle s.draws).toNat, s.nextDraw) := by
  simp only [dmaCycles, h]

/-- The copy of a page whose reads have no side effect, as any write at 0x4014 makes it. -/
theorem oamDmaCopy_page {d : Byte} {f : Nat → Byte} {s : State}
    (plain : ∀ i, i < 256 → ∀ t : State, t.ram = s.ram → t.cart = s.cart →
      memRead (addrOf d (BitVec.ofNat 8 i)) t = (f i, t.setLatch (f i))) :
    let u := oamDmaCopy d 256 0 s
    u.ppu = { s.ppu with oam := u.ppu.oam } ∧
    ∀ i, i < 256 → u.ppu.oam.read ((s.ppu.oamAddr.toNat + i) % 256) = f i := by
  obtain ⟨oam, copied, page, -⟩ := oamDmaCopy_plain d f 256 0 s (Nat.le_refl _) fun i _ => plain i
  intro u
  have ppu : u.ppu = { s.ppu with oam := oam } := congrArg State.ppu copied
  rw [ppu]
  exact ⟨rfl, fun i hi => by simpa using page i hi⟩

theorem pageAddr_toNat (d : Byte) {i : Nat} (h : i < 256) : (addrOf d (BitVec.ofNat 8 i)).toNat = d.toNat * 256 + i := by
  rw [addrOf_toNat, BitVec.toNat_ofNat, Nat.mod_eq_of_lt h, Nat.mul_comm]

theorem memRead_ramPage {d : Byte} (h : d.toNat < 0x20) {i : Nat} (hi : i < 256) (s : State) :
    memRead (addrOf d (BitVec.ofNat 8 i)) s =
      (s.ram.read ((d.toNat * 256 + i) % 0x800), s.setLatch (s.ram.read ((d.toNat * 256 + i) % 0x800))) := by
  have addr := pageAddr_toNat d hi
  rw [memRead_ram (by omega), addr]

theorem memRead_prgPage {d : Byte} (h : 0x80 ≤ d.toNat) {i : Nat} (hi : i < 256) (s : State) :
    memRead (addrOf d (BitVec.ofNat 8 i)) s =
      (s.cart.prgByte (addrOf d (BitVec.ofNat 8 i)), s.setLatch (s.cart.prgByte (addrOf d (BitVec.ofNat 8 i)))) := by
  have addr := pageAddr_toNat d hi
  exact memRead_prg (by omega) s

/-- Settles O52: the write is `memWrite_oamDma`, its copy the fold of `oamDmaCopy_foldl`, and a page of RAM or of PRG is copied by
`oamDmaCopy_page`. -/
theorem oamDmaCopiesThePage : Obligations.OamDmaCopiesThePage := by
  intro d s
  dsimp only
  have fold := oamDmaCopy_foldl d 256 0 s
  rw [← List.range_eq_range'] at fold
  rw [memWrite_oamDma, ← fold]
  obtain ⟨cpu, ram, cfg, oamAddr⟩ := oamDmaCopy_frame d 256 0 s
  have page {f : Nat → Byte} := oamDmaCopy_page (d := d) (f := f) (s := s)
  generalize oamDmaCopy d 256 0 s = u at cpu ram cfg oamAddr page ⊢
  refine ⟨rfl, fun parity => ?parity, fun draw => ?draw, oamAddr, ram, fun low => ?ramPage, fun high => ?prgPage⟩
  case parity =>
    rw [dmaCycles_of_parity (cfg ▸ parity), cpu]
    exact ⟨rfl, rfl⟩
  case draw =>
    rw [dmaCycles_of_draw (cfg ▸ draw)]
    exact ⟨rfl, rfl⟩
  case ramPage => exact page fun i hi t sameRam _ => by rw [memRead_ramPage low hi, sameRam]
  case prgPage => exact page fun i hi t _ sameCart => by rw [memRead_prgPage high hi, sameCart]

/-! ### The controller ports (R405, R406, R409) -/

theorem memWrite_io {a : Addr} (lo : 0x4000 ≤ a.toNat) (hi : a.toNat ≤ 0x401F) (d : Byte) (s : State) :
    memWrite a d s = (ioWrite a d s).setLatch d := by
  rw [memWrite, route_io lo hi, ownerWrite]

theorem memRead_io {a : Addr} (lo : 0x4000 ≤ a.toNat) (hi : a.toNat ≤ 0x401F) (s : State) :
    memRead a s = ((ioRead a s).1, (ioRead a s).2.setLatch (ioRead a s).1) := by
  rw [memRead, route_io lo hi, ownerRead]

/-- The strobe is bit 0, and the buttons are loaded where it was set or is (R405). -/
theorem controllerStrobe_eq (d : Byte) (io : Io) :
    controllerStrobe d io =
      { io with
        strobe := d.getLsbD 0
        shift1 := if io.strobe || d.getLsbD 0 then io.buttons1 else io.shift1
        shift2 := if io.strobe || d.getLsbD 0 then io.buttons2 else io.shift2 } := by
  rw [controllerStrobe]
  split <;> rfl

theorem memWrite_strobe (d : Byte) (s : State) :
    memWrite 0x4016 d s = (s.setIo (controllerStrobe d s.io)).setLatch d := by
  rw [memWrite_io (by decide) (by decide)]
  rfl

/-- The address at which a port is read. -/
def Port.addr : Port → Addr
  | .one => 0x4016
  | .two => 0x4017

theorem memRead_port (k : Port) (s : State) :
    memRead k.addr s = ((controllerRead k s).1, (controllerRead k s).2.setLatch (controllerRead k s).1) := by
  cases k
  all_goals
    rw [memRead_io (by decide) (by decide)]
    rfl

/-- What a read does to the port it reads, field by field. -/
theorem afterRead_eq (io : Io) (k : Port) :
    io.afterRead k = io.setShift (if io.strobe then io.shift k else (io.shift k >>> 1) ||| 0x80) k := by
  rw [Io.afterRead]
  split
  · cases k <;> rfl
  · rfl

/-- A port's byte: its serial bit in bit 0, and zeros in the four bits above. -/
theorem portByte_bits : ∀ (ob : BitVec 3) (b : Bool),
    (ob ++ 0#4 ++ BitVec.ofBool b : Byte).getLsbD 0 = b ∧ (ob ++ 0#4 ++ BitVec.ofBool b : Byte).extractLsb' 1 4 = 0 := by
  decide

/-- The shift register after a read: one place down, with a 1 coming in. -/
theorem shifted_getLsbD (b : Byte) {i : Nat} (h : i < 8) :
    ((b >>> 1) ||| 0x80).getLsbD i = if i + 1 < 8 then b.getLsbD (i + 1) else true := by
  interval_cases i <;> simp [Nat.add_comm]

/-- A read with the strobe clear shifts the port's register, and leaves the strobe clear. -/
theorem memRead_port_io (k : Port) {s : State} (h : s.io.strobe = false) :
    (memRead k.addr s).2.io.strobe = false ∧ (memRead k.addr s).2.io.shift k = (s.io.shift k >>> 1) ||| 0x80 := by
  rw [memRead_port, controllerRead, afterRead_eq, h]
  cases k
  all_goals exact ⟨h, rfl⟩

/-- `n` reads of a port with the strobe clear: its register `n` places down, with 1s behind it. -/
theorem reads_shift (k : Port) {s : State} (h : s.io.strobe = false) (n : Nat) :
    let t := (fun t => (memRead k.addr t).2)^[n] s
    t.io.strobe = false ∧ ∀ i, i < 8 → (t.io.shift k).getLsbD i = if i + n < 8 then (s.io.shift k).getLsbD (i + n) else true := by
  induction n with
  | zero => exact ⟨h, fun i hi => by simp [hi]⟩
  | succ n ih =>
    obtain ⟨strobe, bits⟩ := ih
    obtain ⟨strobe', shift'⟩ := memRead_port_io k strobe
    rw [Function.iterate_succ_apply']
    refine ⟨strobe', fun i hi => ?_⟩
    rw [shift', shifted_getLsbD _ hi]
    by_cases last : i + 1 < 8
    · rw [if_pos last, bits _ last, Nat.add_right_comm, Nat.add_assoc]
    · rw [if_neg last, if_neg (by omega)]

/-- After the buttons are loaded, read number `n` of a port (from 0) finds bit `n` of its register, and 1 from 8 on. -/
theorem port_serialOrder (k : Port) {s : State} (h : s.io.strobe = false) (n : Nat) :
    let answer := (memRead k.addr ((fun t => (memRead k.addr t).2)^[n] s)).1
    answer.getLsbD 0 = (if n < 8 then (s.io.shift k).getLsbD n else true) ∧ answer.extractLsb' 1 4 = 0 := by
  obtain ⟨strobe, bits⟩ := reads_shift k h n
  generalize (fun t => (memRead k.addr t).2)^[n] s = t at strobe bits ⊢
  obtain ⟨bit, zeros⟩ := portByte_bits ((openBus t).1.extractLsb' 5 3) (t.io.serialBit k)
  rw [memRead_port]
  refine ⟨bit.trans ?_, zeros⟩
  rw [Io.serialBit, strobe, if_neg Bool.false_ne_true, bits 0 (by decide), Nat.zero_add]

/-- Two writes at 0x4016, of a byte with bit 0 set and of one with it clear, load the buttons and leave the strobe clear. -/
theorem strobed_io {d1 d0 : Byte} (one : d1.getLsbD 0 = true) (zero : d0.getLsbD 0 = false) (s : State) (k : Port) :
    let t := memWrite 0x4016 d0 (memWrite 0x4016 d1 s)
    t.io.strobe = false ∧ t.io.shift k = s.io.buttons k := by
  simp only [memWrite_strobe, controllerStrobe_eq, one, zero]
  cases k
  all_goals simp [Io.shift, Io.buttons]

/-- Settles O55: a write and a read of a port by `controllerStrobe_eq` and `afterRead_eq`, the other addresses by `ioWrite` and `ioRead`
at them, and the serial order by `port_serialOrder`. -/
theorem controllerSerialOrder : Obligations.ControllerSerialOrder := by
  refine ⟨fun d s => ?strobe, fun s => ⟨?port1, ?port2⟩, fun a d s lo hi => ?window, fun d1 d0 n s one zero => ?serial⟩
  case strobe => rw [memWrite_strobe, controllerStrobe_eq]; rfl
  case port1 =>
    refine (memRead_port .one s).trans ?_
    rw [controllerRead, afterRead_eq]
    rfl
  case port2 =>
    refine (memRead_port .two s).trans ?_
    rw [controllerRead, afterRead_eq]
    rfl
  case window =>
    refine ⟨fun apu notDma notStrobe => ?event, fun above => ?above, fun status => ?status, fun n15 n16 n17 => ?undriven⟩
    case event =>
      rw [memWrite_io lo hi, ioWrite, if_neg notDma, if_neg notStrobe, if_pos apu]
      rfl
    case above =>
      have notDma : a ≠ 0x4014 := by rintro rfl; exact absurd above (by decide)
      have notStrobe : a ≠ 0x4016 := by rintro rfl; exact absurd above (by decide)
      rw [memWrite_io lo hi, ioWrite, if_neg notDma, if_neg notStrobe, if_neg (by omega)]
      rfl
    case status =>
      rw [memRead_io lo hi, status]
      rfl
    case undriven =>
      rw [memRead_io lo hi, ioRead, if_neg n16, if_neg n17, if_neg n15]
      rfl
  case serial =>
    obtain ⟨strobe, shift1⟩ := strobed_io one zero s .one
    obtain ⟨-, shift2⟩ := strobed_io one zero s .two
    obtain ⟨bit1, zeros1⟩ := port_serialOrder .one strobe n
    obtain ⟨bit2, zeros2⟩ := port_serialOrder .two strobe n
    rw [shift1] at bit1
    rw [shift2] at bit2
    exact ⟨bit1, bit2, zeros1, zeros2⟩

end Sys2Proof.Machine

namespace Sys2Proof.Machine

/-! PROOFS. The family 51_ppu_timing_rendering.md: the position (O56), vblank and the status bits (O57), sprite evaluation (O58) and
the pixel (O59). -/

/-! ### The position (R351, R361, R388) -/

/-- The place of a position in the frame, in dots from (0, 0). -/
def Ppu.position (p : Ppu) : Nat := 341 * p.scanline + p.dot

/-- The counters move a position in range to the next, and raise the frame flag when that is (0, 0). -/
theorem advanceDot_advances {p : Ppu} (scanline : p.scanline ≤ 261) (dot : p.dot ≤ 340) :
    let q := advanceDot p
    q.scanline ≤ 261 ∧ q.dot ≤ 340 ∧ q.position = (p.position + 1) % 89342 ∧
    (q.frameReady = true ↔ (p.frameReady = true ∨ p.position + 1 = 89342)) := by
  have wraps : (p.dot + 1 = 341 ∧ p.scanline + 1 = 262) ↔ 341 * p.scanline + p.dot + 1 = 89342 := by omega
  simp only [Ppu.position, advanceDot_eq]
  refine ⟨?_, ?_, ?_, by rw [← wraps, Bool.or_eq_true, decide_eq_true_iff]⟩
  all_goals split_ifs <;> omega

/-- A dot is that move, for the position and the frame flag. -/
theorem ppuStep_advances (e : PpuEnv) {p : Ppu} (scanline : p.scanline ≤ 261) (dot : p.dot ≤ 340) :
    let q := ppuStep e p
    q.scanline ≤ 261 ∧ q.dot ≤ 340 ∧ q.position = (p.position + 1) % 89342 ∧
    (q.frameReady = true ↔ (p.frameReady = true ∨ p.position + 1 = 89342)) := by
  obtain ⟨scanline', dot', frameReady'⟩ := ppuStep_position e p
  dsimp only
  rw [Ppu.position, scanline', dot', frameReady']
  exact advanceDot_advances scanline dot

/-- Settles O56: dot by dot, `ppuStep_advances`. -/
theorem dotsAdvanceThePosition : Obligations.DotsAdvanceThePosition := by
  intro e p n
  induction n generalizing p with
  | zero =>
    intro scanline dot
    dsimp only [ppuRun]
    refine ⟨scanline, dot, by omega, fun _ => ?_⟩
    rw [or_iff_left (by omega)]
  | succ n ih =>
    intro scanline dot
    obtain ⟨scanline', dot', position', ready'⟩ := ppuStep_advances e scanline dot
    obtain ⟨scanline'', dot'', position'', ready''⟩ := ih _ scanline' dot'
    rw [Ppu.position, Ppu.position] at position'
    rw [Ppu.position] at ready'
    refine ⟨scanline'', dot'', position''.trans (by omega), fun few => (ready'' (by omega)).trans ?_⟩
    rw [ready', or_assoc]
    exact or_congr_right (by omega)

/-! ### VBlank and the status bits (R352, R353, R386) -/

/-- The PPU that the vblank stage meets in a dot: at the new position, with what that stage reads as it was before the dot. -/
theorem dotPixel_advanceDot_fields (e : PpuEnv) (p : Ppu) :
    let r := dotPixel e (advanceDot p)
    r.scanline = (ppuStep e p).scanline ∧ r.dot = (ppuStep e p).dot ∧ r.vblank = p.vblank ∧ r.nmiRequest = p.nmiRequest ∧
    r.ctrl = p.ctrl ∧ r.spriteOverflow = p.spriteOverflow := by
  obtain ⟨scanline, dot, -⟩ := ppuStep_position e p
  intro r
  have drawn : r = _ := dotPixel_eq e (advanceDot p)
  rw [scanline, dot, drawn]
  refine ⟨rfl, rfl, ?_⟩
  rw [advanceDot_eq]
  exact ⟨rfl, rfl, rfl, rfl⟩

/-- The vblank start and the pre-render clear, together, by the position. -/
theorem dotClear_dotVblank_status (e : PpuEnv) (p : Ppu) :
    let q := dotClear e (dotVblank p)
    let start := decide (p.scanline = 241 ∧ p.dot = 1)
    let clear := decide (p.scanline = 261 ∧ p.dot = e.cfg.preRenderClearDot)
    q.vblank = ((p.vblank || start) && !clear) ∧ q.nmiRequest = (p.nmiRequest || (start && p.ctrl.getLsbD 7)) ∧
    q.sprite0Hit = (p.sprite0Hit && !clear) ∧ q.spriteOverflow = (p.spriteOverflow && !clear) := by
  rw [dotClear_eq, dotVblank_eq]
  exact ⟨rfl, rfl, rfl, rfl⟩

/-- The stages after the pre-render clear leave vblank, the NMI request and the sprite-0 hit. -/
theorem stagesAfterClear_status (e : PpuEnv) (p : Ppu) :
    let q := dotLatch (dotSprites e (dotScroll p))
    q.vblank = p.vblank ∧ q.nmiRequest = p.nmiRequest ∧ q.sprite0Hit = p.sprite0Hit := by
  rw [dotLatch_eq, dotSprites_eq, dotScroll_eq]
  exact ⟨rfl, rfl, rfl⟩

/-- VBlank, the NMI request and the sprite-0 hit after a dot, by the position it reaches. -/
theorem ppuStep_status (e : PpuEnv) (p : Ppu) :
    let q := ppuStep e p
    let start := decide (q.scanline = 241 ∧ q.dot = 1)
    let clear := decide (q.scanline = 261 ∧ q.dot = e.cfg.preRenderClearDot)
    q.vblank = ((p.vblank || start) && !clear) ∧ q.nmiRequest = (p.nmiRequest || (start && p.ctrl.getLsbD 7)) ∧
    q.sprite0Hit = ((dotPixel e (advanceDot p)).sprite0Hit && !clear) := by
  obtain ⟨scanline, dot, vblank, nmiRequest, ctrl, -⟩ := dotPixel_advanceDot_fields e p
  obtain ⟨v, n, h, -⟩ := dotClear_dotVblank_status e (dotPixel e (advanceDot p))
  obtain ⟨v', n', h'⟩ := stagesAfterClear_status e (dotClear e (dotVblank (dotPixel e (advanceDot p))))
  rw [scanline, dot] at v n h
  rw [vblank] at v
  rw [nmiRequest, ctrl] at n
  exact ⟨v'.trans v, n'.trans n, h'.trans h⟩

theorem dotPixel_sprite0Hit_of_set (e : PpuEnv) {p : Ppu} (h : p.sprite0Hit = true) : (dotPixel e p).sprite0Hit = true := by
  rw [dotPixel]
  split
  · rw [renderPixel]
    split
    · exact h
    · rw [h, Bool.true_or]
  · exact h

/-- Past the visible lines evaluation leaves the overflow flag (R371). -/
theorem dotSprites_spriteOverflow_of_not_visible (e : PpuEnv) {p : Ppu} (h : p.scanline > 239) :
    (dotSprites e p).spriteOverflow = p.spriteOverflow := by
  rw [dotSprites]
  split
  · rw [evaluateSprites, if_pos (.inl h)]
  · rfl

theorem dotSprites_spriteOverflow_of_set (e : PpuEnv) {p : Ppu} (h : p.spriteOverflow = true) :
    (dotSprites e p).spriteOverflow = true := by
  rw [dotSprites]
  split
  · rw [evaluateSprites]
    split
    · exact h
    · simp only [h, Bool.true_or]
  · exact h

/-- The overflow flag after a dot is what evaluation makes of the flag that the pre-render clear has left. -/
theorem ppuStep_spriteOverflow (e : PpuEnv) (p : Ppu) : ∃ r : Ppu,
    (ppuStep e p).spriteOverflow = (dotSprites e r).spriteOverflow ∧ r.scanline = (ppuStep e p).scanline ∧
    r.spriteOverflow = (p.spriteOverflow &&
      !decide ((ppuStep e p).scanline = 261 ∧ (ppuStep e p).dot = e.cfg.preRenderClearDot)) := by
  obtain ⟨scanline, dot, -, -, -, spriteOverflow⟩ := dotPixel_advanceDot_fields e p
  obtain ⟨-, -, -, cleared⟩ := dotClear_dotVblank_status e (dotPixel e (advanceDot p))
  rw [scanline, dot, spriteOverflow] at cleared
  refine ⟨dotScroll (dotClear e (dotVblank (dotPixel e (advanceDot p)))), ?_, ?_, ?_⟩
  · rw [ppuStep, dotLatch_eq]
  · rw [dotScroll_eq, ← scanline, (stages_beforeScroll e (advanceDot p)).eq, dotPixel_eq]
  · rw [dotScroll_eq]
    exact cleared

/-- Settles O57: `ppuStep_status` and `ppuStep_spriteOverflow`, at the position that the dot reaches. -/
theorem vblankAndStatusEvents : Obligations.VblankAndStatusEvents := by
  intro e p
  dsimp only
  obtain ⟨vblank, nmiRequest, sprite0Hit⟩ := ppuStep_status e p
  obtain ⟨r, overflow, line, cleared⟩ := ppuStep_spriteOverflow e p
  generalize ppuStep e p = q at vblank nmiRequest sprite0Hit overflow line cleared ⊢
  refine ⟨fun start => ?start, fun clear => ?clear, fun noStart => ?request, fun noStart noClear => ?vblank,
    fun noClear => ⟨fun hit => ?hit, fun full => ?overflow⟩⟩
  case start =>
    have noClear : ¬(q.scanline = 261 ∧ q.dot = e.cfg.preRenderClearDot) := by omega
    rw [decide_eq_true start, decide_eq_false noClear] at vblank
    rw [decide_eq_true start] at nmiRequest
    exact ⟨vblank.trans (by simp), nmiRequest⟩
  case clear =>
    have blank : r.scanline > 239 := by omega
    rw [decide_eq_true clear] at vblank sprite0Hit cleared
    rw [dotSprites_spriteOverflow_of_not_visible e blank, cleared] at overflow
    exact ⟨vblank.trans (Bool.and_false _), sprite0Hit.trans (Bool.and_false _), overflow.trans (Bool.and_false _)⟩
  case request =>
    rw [decide_eq_false noStart] at nmiRequest
    exact nmiRequest.trans (Bool.or_false _)
  case vblank =>
    rw [decide_eq_false noStart, decide_eq_false noClear] at vblank
    exact vblank.trans (by simp)
  case hit =>
    have drawn : (dotPixel e (advanceDot p)).sprite0Hit = true := dotPixel_sprite0Hit_of_set e (by rw [advanceDot_eq]; exact hit)
    rw [sprite0Hit, drawn, decide_eq_false noClear]
    rfl
  case overflow =>
    rw [full, decide_eq_false noClear] at cleared
    exact overflow.trans (dotSprites_spriteOverflow_of_set e cleared)

/-! ### Sprite evaluation (R370 to R373) -/

/-- A byte of the pattern tables: CHR ROM, or CHR RAM where there is none (20_memory.md R91). -/
def PpuEnv.pattern (e : PpuEnv) (n : Nat) : Byte :=
  match e.cart.chr with
  | .rom bytes => bytes.read n
  | .none => e.chrRam.read n

theorem vramByte_eq_pattern (e : PpuEnv) (p : Ppu) {n : Nat} (h : n < 0x2000) : vramByte e p n = e.pattern n :=
  vramByte_pattern e p n h

theorem spriteInRange_eq (s h : Nat) (y : Byte) : spriteInRange s h y = decide (y.toNat ≤ s ∧ s - y.toNat < h) := by
  simp only [spriteInRange, Bool.decide_and]

theorem evaluateSprites_of_blank {s : Nat} {p : Ppu} (h : s > 239 ∨ p.renderingEnabled = false) (e : PpuEnv) :
    evaluateSprites e s p = { p with lineSprites := [] } := by
  rw [evaluateSprites, if_pos (by simpa using h)]

/-- On a visible line with rendering enabled: the latches of the first loop, and the overflow search after eight. -/
theorem evaluateSprites_of_rendering {s : Nat} {p : Ppu} (visible : s ≤ 239) (enabled : p.renderingEnabled = true) (e : PpuEnv) :
    evaluateSprites e s p =
      { p with
        lineSprites := (collectSprites e p s p.spriteHeight 64 0 []).1
        spriteOverflow := p.spriteOverflow || ((collectSprites e p s p.spriteHeight 64 0 []).1.length == 8 &&
          overflowFound e p s p.spriteHeight (collectSprites e p s p.spriteHeight 64 0 []).2) } := by
  rw [evaluateSprites, if_neg (by simp [visible, enabled])]

/-- The row of the pattern that sprite `n` shows on its row `rr`, from its top (R372). -/
def spriteRow (p : Ppu) (n rr : Nat) : Nat :=
  if (p.oam.read (4 * n + 2)).getLsbD 7 then p.spriteHeight - 1 - rr else rr

/-- The address of the low pattern byte of that row (R372). -/
def spritePatternAddr (p : Ppu) (n rr : Nat) : Nat :=
  let tile := (p.oam.read (4 * n + 1)).toNat
  let row := spriteRow p n rr
  if p.ctrl.getLsbD 5 then tile % 2 * 0x1000 + 16 * (tile - tile % 2) + (if 8 ≤ row then row + 8 else row)
  else (if p.ctrl.getLsbD 3 then 0x1000 else 0) + 16 * tile + row

theorem spriteHeight_of_tall {p : Ppu} (h : p.ctrl.getLsbD 5 = true) : p.spriteHeight = 16 := if_pos h

theorem spriteHeight_of_short {p : Ppu} (h : p.ctrl.getLsbD 5 = false) : p.spriteHeight = 8 := by
  rw [Ppu.spriteHeight, h, if_neg Bool.false_ne_true]

theorem spriteRow_lt {p : Ppu} {rr : Nat} (h : rr < p.spriteHeight) (n : Nat) : spriteRow p n rr < p.spriteHeight := by
  rw [spriteRow]
  split <;> omega

/-- Both pattern bytes of a row of a sprite are in the pattern tables. -/
theorem spritePatternAddr_lt {p : Ppu} {rr : Nat} (h : rr < p.spriteHeight) (n : Nat) : spritePatternAddr p n rr + 8 < 0x2000 := by
  have row := spriteRow_lt h n
  have tile := (p.oam.read (4 * n + 1)).isLt
  rw [spritePatternAddr]
  cases tall : p.ctrl.getLsbD 5
  case true =>
    rw [spriteHeight_of_tall tall] at row
    rw [if_pos rfl]
    split_ifs <;> omega
  case false =>
    rw [spriteHeight_of_short tall] at row
    rw [if_neg Bool.false_ne_true]
    split_ifs <;> omega

/-- The bits of a pattern byte, in reverse where the sprite is mirrored left to right. -/
def flipBits (flip : Bool) (b : Byte) : Byte := if flip then bitReverse8 b else b

theorem flipBits_getLsbD (flip : Bool) (b : Byte) {i : Nat} (h : i < 8) :
    (flipBits flip b).getLsbD i = b.getLsbD (if flip then 7 - i else i) := by
  cases flip with
  | true => exact bitReverse8_bit b i h
  | false => rfl

/-- A latch of a sprite, by the address of its pattern. -/
theorem latchSprite_eq (e : PpuEnv) {p : Ppu} {rr : Nat} (h : rr < p.spriteHeight) (n : Nat) :
    latchSprite e p n rr p.spriteHeight =
      { n := n, x := p.oam.read (4 * n + 3), attr := p.oam.read (4 * n + 2)
        lo := flipBits ((p.oam.read (4 * n + 2)).getLsbD 6) (e.pattern (spritePatternAddr p n rr))
        hi := flipBits ((p.oam.read (4 * n + 2)).getLsbD 6) (e.pattern (spritePatternAddr p n rr + 8)) } := by
  have row := spriteRow_lt h n
  have inTables := spritePatternAddr_lt h n
  rw [← vramByte_eq_pattern e p inTables, ← vramByte_eq_pattern e p (by omega)]
  have addr : spritePatternAddr p n rr =
      if p.spriteHeight = 8 then
        (if p.ctrl.getLsbD 3 then 0x1000 else 0x0000) + (p.oam.read (4 * n + 1)).toNat * 16 + spriteRow p n rr
      else (p.oam.read (4 * n + 1)).toNat % 2 * 0x1000 + (p.oam.read (4 * n + 1)).toNat / 2 * 2 * 16 +
        (if 8 ≤ spriteRow p n rr then 16 else 0) + spriteRow p n rr % 8 := by
    rw [spritePatternAddr]
    cases tall : p.ctrl.getLsbD 5
    case true =>
      rw [spriteHeight_of_tall tall] at row ⊢
      simp only [if_true]
      split_ifs <;> omega
    case false =>
      rw [spriteHeight_of_short tall]
      simp only [if_true, Bool.false_eq_true, if_false]
      omega
  rw [addr]
  rfl

/-- Every latch is that of a sprite in range of the line. -/
theorem mem_collectSprites {e : PpuEnv} {p : Ppu} {s : Nat} {l : SpriteLatch}
    (h : l ∈ (collectSprites e p s p.spriteHeight 64 0 []).1) :
    ∃ n, s - (p.oam.read (4 * n)).toNat < p.spriteHeight ∧
      l = latchSprite e p n (s - (p.oam.read (4 * n)).toNat) p.spriteHeight := by
  obtain found | ⟨n, inRange, latch⟩ := collectSprites_mem e p s p.spriteHeight 64 0 [] l h
  · exact absurd found List.not_mem_nil
  · rw [spriteInRange_eq, decide_eq_true_iff] at inRange
    exact ⟨n, inRange.2, latch⟩

/-- The overflow search past sprite `last`, by its mode. -/
theorem overflowFound_iff (e : PpuEnv) (p : Ppu) (s h last : Nat) :
    overflowFound e p s h (last + 1) = true ↔
      (e.cfg.overflowMode = .ideal ∧ ∃ n, last < n ∧ n < 64 ∧ spriteInRange s h (p.oam.read (4 * n)) = true) ∨
      (e.cfg.overflowMode = .hardware ∧
        ∃ k, last + 1 + k < 64 ∧ spriteInRange s h (p.oam.read (4 * (last + 1 + k) + k % 4)) = true) := by
  rw [overflowFound]
  cases e.cfg.overflowMode with
  | ideal =>
    simp only [overflowIdeal_iff, true_and, reduceCtorEq, false_and, or_false]
    exact exists_congr fun n => by rw [← and_assoc, ← and_assoc]; exact and_congr_left' (by omega)
  | hardware =>
    simp only [overflowHardware_iff _ _ _ _ _ _ (show 0 < 4 by decide), true_and, reduceCtorEq, false_and, false_or, Nat.zero_add]
    exact exists_congr fun k => and_congr_left' (by omega)

/-- The overflow search runs when eight sprites are latched, from past the last of them. -/
theorem overflowFound_collectSprites_iff {e : PpuEnv} {p : Ppu} {s h : Nat} {c : List SpriteLatch × Nat}
    (hc : collectSprites e p s h 64 0 [] = c) :
    (c.1.length == 8 && overflowFound e p s h c.2) = true ↔
      ∃ last, (c.1.map (fun l => l.n)).length = 8 ∧ (c.1.map (fun l => l.n)).getLast? = some last ∧
        overflowFound e p s h (last + 1) = true := by
  have ends := collectSprites_end e p s h 64 0 [] (by decide)
  rw [hc] at ends
  rw [Bool.and_eq_true, beq_iff_eq, List.length_map, List.getLast?_map]
  constructor
  · rintro ⟨eight, overflow⟩
    obtain ⟨l, last, next⟩ := ends eight
    exact ⟨l.n, eight, by rw [last]; rfl, next ▸ overflow⟩
  · rintro ⟨n, eight, last, overflow⟩
    obtain ⟨l, last', next⟩ := ends eight
    rw [last', Option.map_some, Option.some.injEq] at last
    subst last
    exact ⟨eight, next ▸ overflow⟩

/-- Settles O58: the ids by `collectSprites_ids`, each latch by `latchSprite_eq`, the overflow by `overflowFound_iff` past the last
latched sprite. -/
theorem spriteEvaluationTakesTheFirstEight : Obligations.SpriteEvaluationTakesTheFirstEight := by
  intro e s p q h oam inRange chosen pattern
  have inRange_eq : inRange = fun k => spriteInRange s h (p.oam.read k) := funext fun k => (spriteInRange_eq s h _).symm
  refine ⟨evaluateSprites_eq e s p, fun visible enabled => ?rendering, fun blank => ?blank⟩
  case blank =>
    have eq : q = _ := evaluateSprites_of_blank blank e
    rw [eq]
    exact ⟨rfl, rfl⟩
  case rendering =>
    have eq : q = _ := evaluateSprites_of_rendering visible enabled e
    have ids : q.lineSprites.map (fun l => l.n) = chosen := by
      rw [eq]
      refine (collectSprites_ids e p s p.spriteHeight 64 0 [] (by decide)).trans ?_
      simp only [chosen, inRange_eq, List.range_eq_range']
      rfl
    refine ⟨ids, fun l hl => ?latch, ?overflow⟩
    case latch =>
      rw [eq] at hl
      obtain ⟨n, row, rfl⟩ := mem_collectSprites hl
      rw [latchSprite_eq e row]
      exact ⟨rfl, rfl, fun i hi => ⟨flipBits_getLsbD _ _ hi, flipBits_getLsbD _ _ hi⟩⟩
    case overflow =>
      rw [eq] at ids ⊢
      rw [Bool.or_eq_true, overflowFound_collectSprites_iff rfl, ids]
      simp only [overflowFound_iff, inRange_eq]
      rfl

/-! ### The background pixel (R380 to R382) -/

/-- The column of pixel x in the plane of nametables, fine X counted in. -/
def bgColumn (p : Ppu) (x : Nat) : Nat := (p.lineScroll.extractLsb' 0 5).toNat + (p.lineFineX.toNat + x) / 8

/-- The nametable of CIRAM that holds pixel x (20_memory.md R92). -/
def bgPage (e : PpuEnv) (p : Ppu) (x : Nat) : Nat :=
  if e.cart.mirroring = .horizontal then (p.lineScroll.extractLsb' 11 1).toNat
  else ((p.lineScroll.extractLsb' 10 1).toNat + bgColumn p x / 32) % 2

/-- The tile at pixel x. -/
def bgTile (e : PpuEnv) (p : Ppu) (x : Nat) : Byte :=
  p.ciram.read (0x400 * bgPage e p x + 32 * (p.lineScroll.extractLsb' 5 5).toNat + bgColumn p x % 32)

/-- The byte of attributes at pixel x. -/
def bgAttrs (e : PpuEnv) (p : Ppu) (x : Nat) : Byte :=
  p.ciram.read (0x400 * bgPage e p x + 0x3C0 + 8 * ((p.lineScroll.extractLsb' 5 5).toNat / 4) + bgColumn p x % 32 / 4)

/-- The bit of that byte at which the palette of pixel x begins. -/
def bgQuadrant (p : Ppu) (x : Nat) : Nat := 4 * ((p.lineScroll.extractLsb' 5 5).toNat / 2 % 2) + 2 * (bgColumn p x % 32 / 2 % 2)

/-- The address of the low pattern byte of the row of pixel x. -/
def bgRow (e : PpuEnv) (p : Ppu) (x : Nat) : Nat :=
  (if p.ctrl.getLsbD 4 then 0x1000 else 0) + 16 * (bgTile e p x).toNat + (p.lineScroll.extractLsb' 12 3).toNat

/-- Both pattern bytes of a row of a tile are in the pattern tables. -/
theorem bgRow_lt (e : PpuEnv) (p : Ppu) (x : Nat) : bgRow e p x + 8 < 0x2000 := by
  have tile := (bgTile e p x).isLt
  have fineY := (p.lineScroll.extractLsb' 12 3).isLt
  rw [bgRow]
  split <;> omega

/-- The address at which the nametable of pixel x begins. -/
def bgNametable (p : Ppu) (x : Nat) : Nat :=
  0x2000 + (p.lineScroll.extractLsb' 11 1).toNat * 0x800 +
    ((p.lineScroll.extractLsb' 10 1).toNat + bgColumn p x / 32) % 2 * 0x400

theorem vramByte_bgNametable (e : PpuEnv) (p : Ppu) (x : Nat) {k : Nat} (h : k < 0x400) :
    vramByte e p (bgNametable p x + k) = p.ciram.read (0x400 * bgPage e p x + k) :=
  vramByte_nametable e p _ _ k (Nat.mod_lt _ (by decide)) (p.lineScroll.extractLsb' 11 1).isLt h

theorem vramByte_bgTile (e : PpuEnv) (p : Ppu) (x : Nat) :
    vramByte e p (bgNametable p x + (p.lineScroll.extractLsb' 5 5).toNat * 32 + bgColumn p x % 32) = bgTile e p x := by
  have coarseY := (p.lineScroll.extractLsb' 5 5).isLt
  rw [Nat.add_assoc, vramByte_bgNametable e p x (by omega), bgTile, Nat.add_assoc, Nat.mul_comm 32]

theorem vramByte_bgAttrs (e : PpuEnv) (p : Ppu) (x : Nat) :
    vramByte e p (bgNametable p x + 0x3C0 + (p.lineScroll.extractLsb' 5 5).toNat / 4 * 8 + bgColumn p x % 32 / 4) =
      bgAttrs e p x := by
  have coarseY := (p.lineScroll.extractLsb' 5 5).isLt
  rw [Nat.add_assoc, Nat.add_assoc, vramByte_bgNametable e p x (by omega), bgAttrs, Nat.mul_comm 8, Nat.add_assoc, Nat.add_assoc]

/-- The background pixel by the bytes that the line snapshot selects (R381). -/
theorem bgPixel_eq (e : PpuEnv) (p : Ppu) (x : Nat) :
    bgPixel e p x =
      (patternPixel (e.pattern (bgRow e p x)) (e.pattern (bgRow e p x + 8)) ((p.lineFineX.toNat + x) % 8),
        (bgAttrs e p x).extractLsb' (bgQuadrant p x) 2) := by
  have inTables := bgRow_lt e p x
  rw [← vramByte_eq_pattern e p (by omega), ← vramByte_eq_pattern e p inTables, bgRow, bgQuadrant, ← vramByte_bgTile,
    ← vramByte_bgAttrs, Nat.mul_comm 16, Nat.mul_comm 4, Nat.mul_comm 2]
  rfl

/-- The background pixel as a number. -/
theorem bgPixel_toNat (e : PpuEnv) (p : Ppu) (x : Nat) :
    (bgPixel e p x).1.toNat =
      2 * ((e.pattern (bgRow e p x + 8)).getLsbD (7 - (p.lineFineX.toNat + x) % 8)).toNat +
        ((e.pattern (bgRow e p x)).getLsbD (7 - (p.lineFineX.toNat + x) % 8)).toNat := by
  rw [bgPixel_eq, patternPixel_toNat]

theorem toNat_eq_bits : ∀ b : BitVec 2, b.toNat = 2 * (b.getLsbD 1).toNat + (b.getLsbD 0).toNat := by decide

/-- The background palette as a number. -/
theorem bgPalette_toNat (e : PpuEnv) (p : Ppu) (x : Nat) :
    (bgPixel e p x).2.toNat =
      2 * ((bgAttrs e p x).getLsbD (bgQuadrant p x + 1)).toNat + ((bgAttrs e p x).getLsbD (bgQuadrant p x)).toNat := by
  rw [bgPixel_eq, toNat_eq_bits, BitVec.getLsbD_extractLsb', BitVec.getLsbD_extractLsb']
  rfl

/-- A layer shows at x where its bit of Mask is set, and in the left 8 columns its clipping bit too (R380, R382). -/
abbrev LayerShows (p : Ppu) (layer left x : Nat) : Prop :=
  p.mask.getLsbD layer = true ∧ (8 ≤ x ∨ p.mask.getLsbD left = true)

theorem visibleBg_eq (e : PpuEnv) (p : Ppu) (x : Nat) :
    visibleBg e p x = if LayerShows p 3 1 x then (bgPixel e p x).1 else 0 := by
  rw [visibleBg, ← ite_not]
  exact if_congr (by rw [not_or, not_not, not_and_or, not_lt, not_not]) rfl rfl

/-! ### The sprite pixels (R373, R374, R380, R382) -/

theorem spritesShow_iff (p : Ppu) (x : Nat) : spritesShow p x = true ↔ LayerShows p 4 2 x := by
  simp [spritesShow, LayerShows]

/-- The pixel of a latch as a number. -/
theorem SpriteLatch.pixel_toNat (l : SpriteLatch) (x : Nat) :
    (l.pixel x).toNat =
      if l.x.toNat ≤ x ∧ x ≤ l.x.toNat + 7 then
        2 * (l.hi.getLsbD (7 - (x - l.x.toNat))).toNat + (l.lo.getLsbD (7 - (x - l.x.toNat))).toNat
      else 0 := by
  rw [SpriteLatch.pixel, apply_ite BitVec.toNat, patternPixel_toNat]
  exact if_congr (by omega) rfl rfl

/-- The latch of the frontmost opaque sprite pixel. -/
def frontSprite (p : Ppu) (x : Nat) : Option SpriteLatch :=
  if LayerShows p 4 2 x then p.lineSprites.find? (fun l => (l.pixel x).toNat ≠ 0) else none

/-- The latch of sprite 0, where sprites show. -/
def zeroSprite (p : Ppu) (x : Nat) : Option SpriteLatch :=
  if LayerShows p 4 2 x then p.lineSprites.find? (fun l => l.n = 0) else none

theorem toNat_eq_zero_iff (b : BitVec 2) : b.toNat = 0 ↔ b = 0 := by
  rw [← BitVec.toNat_inj]
  rfl

theorem find?_pixel (ls : List SpriteLatch) (x : Nat) :
    ls.find? (fun l => decide (l.pixel x ≠ 0)) = ls.find? (fun l => decide ((l.pixel x).toNat ≠ 0)) :=
  congrArg (ls.find? ·) (funext fun _ => decide_eq_decide.2 (not_congr (toNat_eq_zero_iff _).symm))

theorem visibleSprite_of_none {p : Ppu} {x : Nat} (h : frontSprite p x = none) : (visibleSprite p x).pixel = 0 := by
  rw [frontSprite] at h
  rw [visibleSprite]
  split at h
  · next shown => rw [if_pos ((spritesShow_iff p x).2 shown), spritePixel_find, find?_pixel, h]
  · next hidden => rw [if_neg (mt (spritesShow_iff p x).1 hidden)]

theorem visibleSprite_of_some {p : Ppu} {x : Nat} {l : SpriteLatch} (h : frontSprite p x = some l) :
    visibleSprite p x = { pixel := l.pixel x, palette := l.attr.extractLsb' 0 2, behind := l.attr.getLsbD 5 } ∧
    l.pixel x ≠ 0 := by
  rw [frontSprite, Option.ite_none_right_eq_some] at h
  obtain ⟨shown, found⟩ := h
  refine ⟨?_, mt (toNat_eq_zero_iff _).2 (by simpa using List.find?_some found)⟩
  rw [visibleSprite, if_pos ((spritesShow_iff p x).2 shown), spritePixel_find, find?_pixel, found]

theorem visibleSprite0_ne_zero_iff (p : Ppu) (x : Nat) :
    visibleSprite0 p x ≠ 0 ↔ ∃ l, zeroSprite p x = some l ∧ l.pixel x ≠ 0 := by
  rw [visibleSprite0, zeroSprite]
  by_cases shown : LayerShows p 4 2 x
  · rw [if_pos ((spritesShow_iff p x).2 shown), if_pos shown, sprite0Pixel_find]
    cases p.lineSprites.find? fun l => decide (l.n = 0) <;> simp
  · rw [if_neg (mt (spritesShow_iff p x).1 shown), if_neg shown]
    simp

/-! ### The palette entry and the cell (R383 to R387) -/

theorem palIndex_ofNat {n : Nat} (h : n < 32) : palIndex (BitVec.ofNat 14 (0x3F00 + n)) = if n % 4 = 0 then n % 16 else n := by
  have addr : (BitVec.ofNat 14 (0x3F00 + n)).toNat = 0x3F00 + n := by
    rw [BitVec.toNat_ofNat]
    omega
  rw [palIndex_eq, addr]
  split_ifs <;> omega

/-- The palette entry of a composed pixel (R384; 20_memory.md R93): an opaque pixel is never at a mirrored address. -/
theorem palIndex_paletteAddr (bp bpal : BitVec 2) (sp : SpritePixel) :
    palIndex (paletteAddr bp bpal sp) =
      if sp.pixel ≠ 0 ∧ (bp = 0 ∨ sp.behind = false) then 0x10 + 4 * sp.palette.toNat + sp.pixel.toNat
      else if bp = 0 then 0 else 4 * bpal.toNat + bp.toNat := by
  have := bp.isLt
  have := bpal.isLt
  have := sp.pixel.isLt
  have := sp.palette.isLt
  have background (h : ¬bp = 0) : palIndex (BitVec.ofNat 14 (0x3F00 + 4 * bpal.toNat + bp.toNat)) = 4 * bpal.toNat + bp.toNat := by
    have := mt (toNat_eq_zero_iff _).1 h
    rw [Nat.add_assoc, palIndex_ofNat (by omega), if_neg (by omega)]
  have sprite (h : ¬sp.pixel = 0) : palIndex (BitVec.ofNat 14 (0x3F10 + 4 * sp.palette.toNat + sp.pixel.toNat)) =
      0x10 + 4 * sp.palette.toNat + sp.pixel.toNat := by
    have := mt (toNat_eq_zero_iff _).1 h
    rw [show 0x3F10 + 4 * sp.palette.toNat + sp.pixel.toNat = 0x3F00 + (0x10 + 4 * sp.palette.toNat + sp.pixel.toNat) by omega,
      palIndex_ofNat (by omega), if_neg (by omega)]
  rw [paletteAddr]
  by_cases b0 : bp = 0
  · by_cases s0 : sp.pixel = 0
    · rw [if_pos ⟨b0, s0⟩, if_neg fun c => c.1 s0, if_pos b0]
      rfl
    · rw [if_neg fun c => s0 c.2, if_pos b0, if_pos ⟨s0, .inl b0⟩, sprite s0]
  · by_cases s0 : sp.pixel = 0
    · rw [if_neg fun c => b0 c.1, if_neg b0, if_pos s0, if_neg fun c => c.1 s0, if_neg b0, background b0]
    · rw [if_neg fun c => b0 c.1, if_neg b0, if_neg s0]
      cases behind : sp.behind
      · rw [if_neg Bool.false_ne_true, if_pos ⟨s0, .inr rfl⟩, sprite s0]
      · rw [if_pos rfl, if_neg fun c => c.2.elim b0 nofun, if_neg b0, background b0]

/-- The palette entry of pixel x with rendering enabled. -/
def drawnEntry (e : PpuEnv) (p : Ppu) (x : Nat) : Nat :=
  palIndex (paletteAddr (visibleBg e p x) (bgPixel e p x).2 (visibleSprite p x))

theorem drawnEntry_of_none {p : Ppu} {x : Nat} (h : frontSprite p x = none) (e : PpuEnv) :
    drawnEntry e p x =
      if (visibleBg e p x).toNat = 0 then 0 else 4 * (bgPixel e p x).2.toNat + (visibleBg e p x).toNat := by
  rw [drawnEntry, palIndex_paletteAddr, visibleSprite_of_none h, if_neg fun c => c.1 rfl]
  exact if_congr (toNat_eq_zero_iff _).symm rfl rfl

theorem drawnEntry_of_some {p : Ppu} {x : Nat} {l : SpriteLatch} (h : frontSprite p x = some l) (e : PpuEnv) :
    drawnEntry e p x =
      if (visibleBg e p x).toNat = 0 ∨ l.attr.getLsbD 5 = false then
        0x10 + 4 * (l.attr.extractLsb' 0 2).toNat + (l.pixel x).toNat
      else 4 * (bgPixel e p x).2.toNat + (visibleBg e p x).toNat := by
  obtain ⟨sprite, opaquePixel⟩ := visibleSprite_of_some h
  have noBackground := toNat_eq_zero_iff (visibleBg e p x)
  rw [drawnEntry, palIndex_paletteAddr, sprite]
  by_cases front : (visibleBg e p x).toNat = 0 ∨ l.attr.getLsbD 5 = false
  · rw [if_pos ⟨opaquePixel, front.imp_left noBackground.1⟩, if_pos front]
  · rw [if_neg fun c => front (c.2.imp_left noBackground.2), if_neg fun c => front (.inl (noBackground.2 c)), if_neg front]

/-- Drawing a pixel, by the palette entry and the sprite-0 hit. -/
theorem renderPixel_of_disabled {p : Ppu} (h : p.renderingEnabled = false) (e : PpuEnv) (s x : Nat) :
    renderPixel e s x p = { p with fb := p.fb.write (256 * s + x) (p.cell (p.palette.read 0)) } := by
  rw [renderPixel, h, if_pos Bool.false_ne_true]
  rfl

theorem renderPixel_of_enabled {p : Ppu} (h : p.renderingEnabled = true) (e : PpuEnv) (s x : Nat) :
    renderPixel e s x p =
      { p with
        fb := p.fb.write (256 * s + x) (p.cell (p.palette.read (drawnEntry e p x)))
        sprite0Hit := p.sprite0Hit || sprite0Hits e p x } := by
  rw [renderPixel, if_neg (not_not.2 h)]
  rfl

theorem sprite0Hits_iff (e : PpuEnv) (p : Ppu) (x : Nat) :
    sprite0Hits e p x = true ↔
      x ≠ 255 ∧ (visibleBg e p x).toNat ≠ 0 ∧ ∃ l, zeroSprite p x = some l ∧ (l.pixel x).toNat ≠ 0 := by
  simp only [ne_eq, toNat_eq_zero_iff]
  rw [← ne_eq, ← ne_eq, ← visibleSprite0_ne_zero_iff, sprite0Hits, Bool.and_eq_true, Bool.and_eq_true, bne_iff_ne, bne_iff_ne,
    bne_iff_ne]
  tauto

/-- With rendering off there is no background. -/
theorem visibleBg_of_disabled {p : Ppu} (h : p.renderingEnabled = false) (e : PpuEnv) (x : Nat) : visibleBg e p x = 0 := by
  have off : p.mask.getLsbD 3 = false := (Bool.or_eq_false_iff.1 h).1
  rw [visibleBg_eq, if_neg fun shown => Bool.false_ne_true (off.symm.trans shown.1)]

/-- Settles O59: the cell and the sprite-0 hit are those of `renderPixel_of_enabled` and `renderPixel_of_disabled`, the parts named in
the statement the numbers of the model's own. -/
theorem pixelCompositionAndSpriteZeroHit : Obligations.PixelCompositionAndSpriteZeroHit := by
  intro e s x p q scroll fx column cx cy page pattern tile attrs quadrant row pixel shown bg bgPalette own front zero entry
  have own_eq : own = fun l => (l.pixel x).toNat := funext fun l => (l.pixel_toNat x).symm
  have bg_eq : bg = (visibleBg e p x).toNat := by
    rw [visibleBg_eq, apply_ite BitVec.toNat, bgPixel_toNat]
    rfl
  have bgPalette_eq : bgPalette = (bgPixel e p x).2.toNat := (bgPalette_toNat e p x).symm
  have front_eq : front = frontSprite p x := by
    simp only [front, own_eq]
    rfl
  have zero_eq : zero = zeroSprite p x := rfl
  cases enabled : p.renderingEnabled
  case false =>
    have entry_eq : entry = 0 := if_pos enabled
    have drawn : q = _ := renderPixel_of_disabled enabled e s x
    rw [drawn, entry_eq, bg_eq, visibleBg_of_disabled enabled]
    exact ⟨rfl, fun k => Store.read_write _ _ _ _, by simp⟩
  case true =>
    have entry_eq : entry = drawnEntry e p x := by
      simp only [entry, enabled, front_eq, own_eq, bg_eq, bgPalette_eq]
      cases found : frontSprite p x with
      | none => exact (drawnEntry_of_none found e).symm
      | some l => exact (drawnEntry_of_some found e).symm
    have drawn : q = _ := renderPixel_of_enabled enabled e s x
    rw [drawn, entry_eq, zero_eq, bg_eq, own_eq]
    exact ⟨rfl, fun k => Store.read_write _ _ _ _, by rw [Bool.or_eq_true, sprite0Hits_iff]⟩

end Sys2Proof.Machine
